-- ==== Sys2Proof/Word.lean ====
section
/-! DEFINITION. The word types of the block: the 32-bit command word (30_encoding.md R90) and the 8-bit row byte (20_memory.md R71),
with the three fields of format CMD32 (R91). Bits are numbered from 0, the least significant (00_scope.md R11). -/

namespace Sys2Proof

/-- A command word of format CMD32 (R90). -/
abbrev Word := BitVec 32

/-- A row-data byte, and the value of the data bus (R71, R74). -/
abbrev Byte := BitVec 8

/-- The field `OP`, bits [3:0] of a command word (R91). -/
def Word.opField (w : Word) : BitVec 4 := w.extractLsb' 0 4

/-- The field `RSV`, bits [15:4] of a command word (R91). -/
def Word.rsvField (w : Word) : BitVec 12 := w.extractLsb' 4 12

/-- The field `SIZE`, bits [31:16] of a command word (R91). -/
def Word.sizeField (w : Word) : BitVec 16 := w.extractLsb' 16 16

/-- `zext_8` of one bit: the value a scalar pin event shows on the trace port (00_scope.md R11, 60_exceptions.md R190). -/
def zext8 (b : Bool) : Byte := (BitVec.ofBool b).setWidth 8

end Sys2Proof
end

