-- ==== Sys2Proof/Syntax.lean ====
section
/-! DEFINITION. The command set EPDSEQ-CMD32 as syntax: the five commands (30_encoding.md R92), their opcodes, and the lines of the assembler
(R100, R101). The only operand is the 16-bit unsigned size of WRITE_ROW (R94): its type carries its bound. -/

namespace Sys2Proof

/-- A command: one constructor per row of spec/opcode_table.json. -/
inductive Instr where
  /-- `ENABLE` (R140). -/
  | enable
  /-- `DISABLE` (R143). -/
  | disable
  /-- `START_FRAME` (R150). -/
  | startFrame
  /-- `END_FRAME` (R153). -/
  | endFrame
  /-- `WRITE_ROW n` (R160): n row bytes follow on the byte stream, not in the word. -/
  | writeRow (n : BitVec 16)
  deriving DecidableEq, Repr

/-- The five assigned opcodes (R92). -/
inductive Opcode where
  | enable
  | disable
  | startFrame
  | endFrame
  | writeRow
  deriving DecidableEq, Repr

/-- The operation of a command. -/
def Instr.opcode : Instr → Opcode
  | .enable => .enable
  | .disable => .disable
  | .startFrame => .startFrame
  | .endFrame => .endFrame
  | .writeRow _ => .writeRow

/-- The size a command carries: n for WRITE_ROW, 0 for every other command (R97). -/
def Instr.size : Instr → BitVec 16
  | .enable => 0
  | .disable => 0
  | .startFrame => 0
  | .endFrame => 0
  | .writeRow n => n

/-- A line of assembly that is one command (R100). Numbers are as written; the checks stand in Sys2Proof/WellFormed.lean. -/
inductive AsmCore where
  | enable
  | disable
  | startFrame
  | endFrame
  | writeRow (n : Nat) (bytes : List Nat)
  deriving DecidableEq, Repr

/-- A line of assembly: a command, or one of the three pseudo-instructions (R101). -/
inductive AsmLine where
  | core (c : AsmCore)
  /-- `WRITE_ROW_EMPTY`. -/
  | writeRowEmpty
  /-- `FRAME R_0, ..., R_(k-1)`. -/
  | frame (rows : List (List Nat))
  /-- `CYCLE R_0, ..., R_(k-1)`. -/
  | cycle (rows : List (List Nat))
  deriving DecidableEq, Repr

end Sys2Proof
end

