-- ==== Sys2Proof/WellFormed.lean ====
section
/-! DEFINITION. The checks on written programs (30_encoding.md R100): the assembler refuses a byte list whose length is not n, an n above 65535
and a byte above 255. A term of `Instr` needs no check of its own: its one operand is a `BitVec 16`, exactly the range 0 to 65535 of R94.
The other check of the model, on build parameters (00_scope.md R10), is `Config.ok` in Sys2Proof/Machine/Timing.lean. -/

namespace Sys2Proof

/-- The list after `WRITE_ROW n` has length n. -/
def lengthAgrees (n : Nat) (bytes : List Nat) : Bool := bytes.length == n

/-- n is at most 65535. -/
def sizeFits (n : Nat) : Bool := decide (n ≤ 65535)

/-- Every byte is at most 255. -/
def bytesFit (bytes : List Nat) : Bool := bytes.all fun b => decide (b ≤ 255)

/-- What the assembler accepts as one command line (R100). -/
def AsmCore.wellFormed : AsmCore → Bool
  | .enable => true
  | .disable => true
  | .startFrame => true
  | .endFrame => true
  | .writeRow n bytes => lengthAgrees n bytes && sizeFits n && bytesFit bytes

/-- What the assembler accepts as one line. A row of FRAME or CYCLE stands for `WRITE_ROW len(R_j), R_j` (R101), so its length agrees by itself. -/
def AsmLine.wellFormed : AsmLine → Bool
  | .core c => c.wellFormed
  | .writeRowEmpty => true
  | .frame rows => rows.all fun r => sizeFits r.length && bytesFit r
  | .cycle rows => rows.all fun r => sizeFits r.length && bytesFit r

end Sys2Proof
end

