-- ==== Sys2Proof/Decode.lean ====
section
/-! DEFINITION. Decoding a command word (30_encoding.md R93 to R98), total on all 2^32 words and naming why a word is illegal; and after it the
encoder (R91, R92) and the assembler's words and stream bytes (R100). -/

namespace Sys2Proof

/-- The opcode assignment of R92. -/
def Opcode.bits : Opcode → BitVec 4
  | .enable => 0x1
  | .disable => 0x2
  | .startFrame => 0x3
  | .endFrame => 0x4
  | .writeRow => 0x5

/-- Reading an opcode field: 0x0 and 0x6 to 0xF are reserved (R95). -/
def Opcode.ofBits (b : BitVec 4) : Option Opcode :=
  if b = 0x1 then some .enable
  else if b = 0x2 then some .disable
  else if b = 0x3 then some .startFrame
  else if b = 0x4 then some .endFrame
  else if b = 0x5 then some .writeRow
  else none

/-- Why a word is illegal. The block keeps no record of the reason (R181); where a word breaks several rules the model names the first below
(log 13). -/
inductive IllegalReason where
  /-- `RSV` is not 0 (R96). -/
  | reservedBits
  /-- The opcode is 0x0 or 0x6 to 0xF (R95). -/
  | reservedOpcode
  /-- `SIZE` is not 0 with an opcode that has no operand (R97). -/
  | sizeNotZero
  deriving DecidableEq, Repr

/-- What a word decodes to: `Illegal | Cmd(op, n)` of R93. -/
inductive Decoded where
  | illegal (why : IllegalReason)
  | cmd (i : Instr)
  deriving DecidableEq, Repr

/-- A command with no operand is legal only with `SIZE` = 0 (R97). -/
def noOperand (size : BitVec 16) (i : Instr) : Decoded := if size = 0 then .cmd i else .illegal .sizeNotZero

/-- The decoder (R93). -/
def decode (w : Word) : Decoded :=
  if w.rsvField ≠ 0 then .illegal .reservedBits
  else match Opcode.ofBits w.opField with
    | none => .illegal .reservedOpcode
    | some .enable => noOperand w.sizeField .enable
    | some .disable => noOperand w.sizeField .disable
    | some .startFrame => noOperand w.sizeField .startFrame
    | some .endFrame => noOperand w.sizeField .endFrame
    | some .writeRow => .cmd (.writeRow w.sizeField)

/-- The word is one of the legal ones. -/
def legalWord (w : Word) : Bool :=
  match decode w with
  | .illegal _ => false
  | .cmd _ => true

/-- The word of a command: `{SIZE, RSV = 0, OP}`, which is `(n << 16) | OP` (R91, R92). -/
def encode (i : Instr) : Word := (i.size.setWidth 32 <<< 16) ||| i.opcode.bits.setWidth 32

/-- The host's reading of one row of spec/opcode_table.json. A command is one 32-bit word that arrives whole (R76, R99), so the bits of the
instruction are the bits of the word; those above `nbits` are 0. -/
def tableWord (nbits w : Nat) : Word := BitVec.ofNat 32 (w % 2 ^ nbits)

/-- The instruction the decoder reads from a table word. -/
def decodeTableWord (nbits w : Nat) : Option Instr :=
  match decode (tableWord nbits w) with
  | .illegal _ => none
  | .cmd i => some i

/-- The command of a command line. -/
def AsmCore.instr : AsmCore → Instr
  | .enable => .enable
  | .disable => .disable
  | .startFrame => .startFrame
  | .endFrame => .endFrame
  | .writeRow n _ => .writeRow (BitVec.ofNat 16 n)

/-- The bytes the host feeds on `din` for a command line, in order (R100). -/
def AsmCore.stream : AsmCore → List Byte
  | .enable => []
  | .disable => []
  | .startFrame => []
  | .endFrame => []
  | .writeRow _ bytes => bytes.map (BitVec.ofNat 8)

/-- The command lines of `WRITE_ROW len(R_j), R_j` for each row in order (R101). -/
def rowLines (rows : List (List Nat)) : List AsmCore := rows.map fun r => .writeRow r.length r

/-- The expansion of a line into command lines (R101). -/
def AsmLine.expand : AsmLine → List AsmCore
  | .core c => [c]
  | .writeRowEmpty => [.writeRow 0 []]
  | .frame rows => .startFrame :: rowLines rows ++ [.endFrame]
  | .cycle rows => .enable :: .startFrame :: rowLines rows ++ [.endFrame, .disable]

/-- The assembler: one CMD32 word and its stream bytes for each command line of the expansion, or a refusal (R100, R101). -/
def assemble (l : AsmLine) : Option (List (Word × List Byte)) :=
  if l.wellFormed then some (l.expand.map fun c => (encode c.instr, c.stream)) else none

end Sys2Proof
end

