-- ==== Sys2Proof/Machine/Cycles.lean ====
section
/-! DEFINITION. Cycle counts from times and a clock frequency, and the width of a counter that reaches them (00_scope.md R8, R9), on plain numbers:
the build parameters (Sys2Proof/Config.lean) take their default for `CNT_W` from here. -/

namespace Sys2Proof

/-- The ceiling of `ns * hz / 10^9`, an exact rational (R9). -/
def cyclesFor (ns hz : Nat) : Nat := (ns * hz + 999999999) / 1000000000

/-- The smallest w with `2^w - 1 ≥ n`. -/
def widthFor (n : Nat) : Nat := if n = 0 then 0 else Nat.log2 n + 1

/-- `max(G, H, S)` with H = max(G, C) (R9), from the parameters of R8. -/
def longestWaitFor (gap tCkvLowNs tDcdcSettleNs fClkHz : Nat) : Nat :=
  max gap (max (max gap (cyclesFor tCkvLowNs fClkHz)) (cyclesFor tDcdcSettleNs fClkHz))

/-- The default of `CNT_W`: the smallest w with `2^w - 1 ≥ max(G, H, S)` (R8). -/
def defaultCntW (gap tCkvLowNs tDcdcSettleNs fClkHz : Nat) : Nat := widthFor (longestWaitFor gap tCkvLowNs tDcdcSettleNs fClkHz)

end Sys2Proof
end

