-- ==== Sys2Proof/Config.lean ====
section
/-! DEFINITION. The build parameters of the block (00_scope.md R8) as plain data. A claim holds for every value of them; what may be built is
`Config.ok` (R10, Sys2Proof/Machine/Timing.lean), and the derived cycle counts C, H and S (R9) stand there too. -/

namespace Sys2Proof

/-- The parameters a builder fixes. The first six are the table of R8 with its defaults; its seventh, `DATA_W`, is fixed at 8, the width of the
type `Byte`. The five pad levels are the ones that 93_implementation_defined.md U4 and U5 make parameters: the levels of MODE, OE, LE, CL and the
bus after a reset edge, with the spec's values 0 and 0x00. -/
structure Config where
  /-- `F_CLK_HZ`, the frequency of `clk` in Hz. -/
  fClkHz : Nat
  /-- `G` (`EVENT_GAP_CYCLES`), clock cycles from one pin event to the next. -/
  gap : Nat := 1
  /-- `T_CKV_LOW_NS`, minimum CKV low time in a CKV pulse, ns. -/
  tCkvLowNs : Nat := 1000
  /-- `T_DCDC_SETTLE_NS`, minimum wait after DCDC goes low, ns. -/
  tDcdcSettleNs : Nat := 100000000
  /-- `SIZE_W`, width of the WRITE_ROW size field. R10 fixes it at 16. -/
  sizeW : Nat := 16
  /-- `CNT_W`, width of the sequencer's cycle counter, bits: by default the smallest that reaches max(G, H, S). -/
  cntW : Nat := defaultCntW gap tCkvLowNs tDcdcSettleNs fClkHz
  padMode : Bool := false
  padOe : Bool := false
  padLe : Bool := false
  padCl : Bool := false
  padD : Byte := 0
  deriving DecidableEq, Repr

/-- The example parameters of 41_power.md and 95_test_vectors.md: G = 1, F_CLK_HZ = 10 000 000 and the source's two times. F_CLK_HZ is OPEN in
the spec; that the machine after reset carries this value is a DESIGN CHOICE (log 1, unsafe for a claim that rests on it). Every other parameter
has its default of R8, CNT_W among them, which is 20 here. -/
def Config.sample : Config := { fClkHz := 10000000 }

/-- The pad levels are the spec's own reset levels of 10_state.md R50 (D4, D5). -/
abbrev Config.SpecPads (c : Config) : Prop :=
  c.padMode = false ∧ c.padOe = false ∧ c.padLe = false ∧ c.padCl = false ∧ c.padD = 0#8

end Sys2Proof
end

