-- ==== Sys2Proof/Machine/State.lean ====
section
/-! DEFINITION. The state of the block (10_state.md), as plain data: the nine output registers, the lifecycle and sequencer registers, the two
sticky fault bits, the trace registers, the build parameters it was made with and what the host presents on the input ports at the coming edges.
The block has no memory (20_memory.md R70), no register file (R35) and no program counter (R51; log 10). -/

namespace Sys2Proof.Machine

/-- The lifecycle state (R40). The code 11 is never reached and is left out, as R52 allows (log 6). -/
inductive Life where
  | disabled
  | idle
  | frameOpen
  deriving DecidableEq, Repr

/-- The sequencer's position inside a command, or IDLE (R44). The codes 23 to 31 are never reached and are left out, as R52 allows (log 6). -/
inductive Phase where
  | idle
  | enDcdcLo
  | enSettle
  | disDcdcHi
  | sfOeHi
  | sfModeHi
  | sfSpvLo
  | sfCkvLo
  | sfCkvHi
  | sfSpvHi
  | efModeLo
  | efOeLo
  | wrStlLo
  | wrData
  | wrClHi
  | wrClLo
  | wrStlHi
  | wrXclHi
  | wrXclLo
  | wrLeHi
  | wrLeLo
  | wrCkvLo
  | wrCkvHi
  deriving DecidableEq, Repr

/-- The input ports of R30, as sampled at one rising edge (00_scope.md R12). -/
structure EdgeInput where
  rst : Bool
  cmdValid : Bool
  cmd : Word
  dinValid : Bool
  din : Byte
  deriving DecidableEq, Repr

/-- An edge at which the host does nothing: no reset, no command, no byte. -/
def EdgeInput.quiet : EdgeInput := { rst := false, cmdValid := false, cmd := 0, dinValid := false, din := 0 }

/-- The state `σ` of the block, with its build parameters and the inputs of the coming edges. -/
structure State where
  /-- SPV (R34). -/
  spv : Bool
  /-- CKV (R34). -/
  ckv : Bool
  /-- MODE (R34). -/
  mode : Bool
  /-- STL (R34). -/
  stl : Bool
  /-- OE (R34). -/
  oe : Bool
  /-- LE (R34). -/
  le : Bool
  /-- CL (R34). -/
  cl : Bool
  /-- DCDC (R34): `false` means the converter is on (R145). -/
  dcdc : Bool
  /-- The data bus; bit i drives line D0+i (R34, R36, R74). -/
  d : Byte
  /-- The lifecycle state (R40). -/
  life : Life
  /-- A command is in execution (R43). -/
  busy : Bool
  /-- The next pin event of the command in execution (R44). -/
  phase : Phase
  /-- The opcode field of the accepted command (R45). -/
  op : BitVec 4
  /-- The size field of the accepted command (R45). -/
  size : BitVec 16
  /-- The bytes of the current row already shifted (R45). -/
  idx : BitVec 16
  /-- The edges since the last pin event, a saturating counter of `CNT_W` bits (R46; log 8). -/
  cnt : Nat
  /-- The sticky bit of `ILLEGAL_CMD` (R47). -/
  faultIllegal : Bool
  /-- The sticky bit of `ORDER` (R47). -/
  faultOrder : Bool
  /-- Trace port: a pin event fired at the last edge (R49, R190). -/
  evValid : Bool
  /-- Trace port: its signal id (R49, R191). -/
  evSig : BitVec 4
  /-- Trace port: its value (R49, R190). -/
  evVal : Byte
  /-- The build parameters; nothing writes them (log 1). -/
  cfg : Config
  /-- What the host presents at the coming edges, the next edge first; past its end the host is quiet (log 2). -/
  inputs : List EdgeInput
  deriving DecidableEq, Repr

/-- The reset state of R50, for given build parameters and coming inputs. -/
def State.resetOf (cfg : Config) (inputs : List EdgeInput) : State :=
  { spv := true, ckv := true, mode := cfg.padMode, stl := true, oe := cfg.padOe, le := cfg.padLe, cl := cfg.padCl, dcdc := true, d := cfg.padD,
    life := .disabled, busy := false, phase := .idle, op := 0, size := 0, idx := 0, cnt := 0, faultIllegal := false, faultOrder := false,
    evValid := false, evSig := 0, evVal := 0, cfg := cfg, inputs := inputs }

/-- The machine right after reset (R50), with the example parameters (log 1) and nothing offered yet (log 2). What comes before the first reset
is not modelled (log 11). -/
def State.reset : State := State.resetOf Config.sample []

/-- The nine output lines (R34), to say of them together that they did not change. -/
structure Lines where
  spv : Bool
  ckv : Bool
  mode : Bool
  stl : Bool
  oe : Bool
  le : Bool
  cl : Bool
  dcdc : Bool
  d : Byte
  deriving DecidableEq, Repr

/-- The levels on the nine signal lines. -/
def State.lines (s : State) : Lines :=
  { spv := s.spv, ckv := s.ckv, mode := s.mode, stl := s.stl, oe := s.oe, le := s.le, cl := s.cl, dcdc := s.dcdc, d := s.d }

/-- Why the machine stops. The block itself never stops: its own two faults are the sticky bits `faultIllegal` and `faultOrder` (R180 to R182). -/
inductive Fault where
  /-- Raised by a meaning when the block is busy and `phase` is no phase of that command: a state that no run reaches and for which the spec gives
  no step, stuck as R52 says of the other unreachable codes. Safe (log 5). -/
  | strayPhase
  /-- Raised by the step when the block is busy and `op` holds no opcode: a state that no run reaches, stuck in the same way. Safe (log 5). -/
  | noCommand
  deriving DecidableEq, Repr

/-- Why a step has no meaning. -/
inductive Refusal where
  /-- Raised by an arm of `exec` whose instruction has no meaning yet. No arm does. Safe. -/
  | notModelled (mnemonic : String)
  /-- Raised by the step for build parameters that break 00_scope.md R10 (D37, U17). Safe (log 9). -/
  | invalidConfig
  deriving DecidableEq, Repr

/-- The outcome of a step or of a meaning. -/
abbrev Outcome := Host.Outcome State Fault Refusal

end Sys2Proof.Machine
end

