-- ==== Sys2Proof/Machine/Timing.lean ====
section
/-! DEFINITION. The derived cycle counts (00_scope.md R9), what may be built (R10), and the saturating counter (R13, 40_sequencer.md R120). -/

namespace Sys2Proof

/-- `C`, the CKV low hold in cycles (R9). -/
def Config.ckvLow (c : Config) : Nat := cyclesFor c.tCkvLowNs c.fClkHz

/-- `S`, the DCDC settle in cycles (R9). -/
def Config.settle (c : Config) : Nat := cyclesFor c.tDcdcSettleNs c.fClkHz

/-- `H`, the cycles from CKV falling to CKV rising (R9). -/
def Config.hold (c : Config) : Nat := max c.gap c.ckvLow

/-- The largest value of a counter of w bits. -/
def counterMax (w : Nat) : Nat := 2 ^ w - 1

/-- The largest wait the counter must reach: max(G, H, S) (R8, R10). -/
def Config.longestWait (c : Config) : Nat := max c.gap (max c.hold c.settle)

/-- The smallest legal width of the counter: the value that `cntW` has by default (R8). -/
def Config.minCntW (c : Config) : Nat := widthFor c.longestWait

/-- The constraints of R10. -/
def Config.ok (c : Config) : Bool :=
  decide (1 ≤ c.fClkHz) && decide (1 ≤ c.gap) && decide (1 ≤ c.tCkvLowNs) && decide (1 ≤ c.tDcdcSettleNs)
    && decide (c.longestWait ≤ counterMax c.cntW) && decide (c.sizeW = 16)

/-- `sat_CNT_W(x)` (R13, R120). -/
def Config.sat (c : Config) (x : Nat) : Nat := min x (counterMax c.cntW)

end Sys2Proof
end

