-- ==== Sys2Proof/Machine/Flags.lean ====
section
/-! DEFINITION. The flag-like state of the block (10_state.md R53) and the outputs computed from the registers (40_sequencer.md R111): the sticky
fault bits (60_exceptions.md R181, R182), the order check (R42, R122), the lifecycle update (R121), the status word (R48) and the two ready lines. -/

namespace Sys2Proof.Machine

/-- The encoding of `life` (R40). -/
def Life.code : Life → BitVec 2
  | .disabled => 0
  | .idle => 1
  | .frameOpen => 2

/-- The encoding of `phase` (R44). -/
def Phase.code : Phase → BitVec 5
  | .idle => 0
  | .enDcdcLo => 1
  | .enSettle => 2
  | .disDcdcHi => 3
  | .sfOeHi => 4
  | .sfModeHi => 5
  | .sfSpvLo => 6
  | .sfCkvLo => 7
  | .sfCkvHi => 8
  | .sfSpvHi => 9
  | .efModeLo => 10
  | .efOeLo => 11
  | .wrStlLo => 12
  | .wrData => 13
  | .wrClHi => 14
  | .wrClLo => 15
  | .wrStlHi => 16
  | .wrXclHi => 17
  | .wrXclLo => 18
  | .wrLeHi => 19
  | .wrLeLo => 20
  | .wrCkvLo => 21
  | .wrCkvHi => 22

/-- The block's two fault codes (R182). -/
inductive FaultCode where
  | illegalCmd
  | order
  deriving DecidableEq, Repr

/-- `raise Fault(code)`: sets the bit of the code and does nothing else (R181). There is no trap to enter and none to return from (R187). -/
def raiseFault (code : FaultCode) (s : State) : State :=
  match code with
  | .illegalCmd => { s with faultIllegal := true }
  | .order => { s with faultOrder := true }

/-- `allowed(life, op)`: the five contract transitions (R42). -/
def allowed : Life → Opcode → Bool
  | .disabled, .enable => true
  | .idle, .disable => true
  | .idle, .startFrame => true
  | .frameOpen, .writeRow => true
  | .frameOpen, .endFrame => true
  | .disabled, .disable => false
  | .disabled, .startFrame => false
  | .disabled, .endFrame => false
  | .disabled, .writeRow => false
  | .idle, .enable => false
  | .idle, .endFrame => false
  | .idle, .writeRow => false
  | .frameOpen, .enable => false
  | .frameOpen, .disable => false
  | .frameOpen, .startFrame => false

/-- The order check at acceptance (R122): the fault is recorded and nothing else changes. -/
def checkOrder (op : Opcode) (s : State) : State := if allowed s.life op then s else raiseFault .order s

/-- `next_life(life, op)`, written at completion (R121). -/
def nextLife : Life → Opcode → Life
  | .disabled, .enable => .idle
  | .idle, .enable => .idle
  | .frameOpen, .enable => .frameOpen
  | _, .disable => .disabled
  | .disabled, .startFrame => .disabled
  | .idle, .startFrame => .frameOpen
  | .frameOpen, .startFrame => .frameOpen
  | .disabled, .endFrame => .disabled
  | .idle, .endFrame => .idle
  | .frameOpen, .endFrame => .idle
  | l, .writeRow => l

/-- The status word: `{3'b000, fault_illegal, fault_order, busy, life}` (R48, R111). -/
def State.status (s : State) : BitVec 8 :=
  0#3 ++ BitVec.ofBool s.faultIllegal ++ BitVec.ofBool s.faultOrder ++ BitVec.ofBool s.busy ++ s.life.code

/-- `cmd_ready` (R111). -/
def State.cmdReady (s : State) : Bool := !s.busy

/-- `din_ready` (R111). -/
def State.dinReady (s : State) : Bool := s.busy && decide (s.phase = .wrData) && decide (s.cfg.gap ≤ s.cnt + 1)

end Sys2Proof.Machine
end

