-- ==== Sys2Proof/Machine/Operands.lean ====
section
/-! DEFINITION. Where a command's operands come from: the inputs sampled at the edge (00_scope.md R12), the byte taken from the stream
(20_memory.md R71, R72) and the captured fields `op` and `size` of the command in execution (10_state.md R45). -/

namespace Sys2Proof.Machine

/-- The inputs sampled at the edge that is j edges after the next one; past the end of the list the host is quiet (log 2). -/
def State.inputAt (s : State) (j : Nat) : EdgeInput := s.inputs.getD j .quiet

/-- The inputs sampled at the next edge, `in` of R112. -/
def State.input (s : State) : EdgeInput := s.inputAt 0

/-- The edge is over: the inputs of the following edge come next. -/
def State.nextEdge (s : State) : State := { s with inputs := s.inputs.tail }

/-- `StreamRead()`: the value on `din` at the edge where the byte handshake completes (R13, R72). -/
def State.streamRead (s : State) : Byte := s.input.din

/-- A byte handshake completes at the next edge (R72). -/
def State.takesByte (s : State) : Bool := !s.input.rst && s.input.dinValid && s.dinReady

/-- A command handshake completes at the next edge (R113). -/
def State.takesCommand (s : State) : Bool := !s.input.rst && s.input.cmdValid && s.cmdReady

/-- The command in execution, from the captured opcode and size (R45); none where `op` holds no opcode. -/
def State.running (s : State) : Option Instr :=
  match Opcode.ofBits s.op with
  | none => none
  | some .enable => some .enable
  | some .disable => some .disable
  | some .startFrame => some .startFrame
  | some .endFrame => some .endFrame
  | some .writeRow => some (.writeRow s.size)

end Sys2Proof.Machine
end

