-- ==== Sys2Proof/Machine/Ops.lean ====
section
/-! DEFINITION. The operations that the five meanings share: writing a line or the bus with its trace entry (00_scope.md R13, 60_exceptions.md
R190), accepting a command (40_sequencer.md R113), firing or holding a phase (R112, R114), completing (R117), and a reset edge
(70_reset_and_hazards.md R210). The block has no memory, and no trap: its one way to report a fault is `raiseFault` (Flags.lean, R181, R187). -/

namespace Sys2Proof.Machine

/-- The eight scalar lines (10_state.md R31). -/
inductive Line where
  | spv
  | ckv
  | mode
  | stl
  | oe
  | le
  | cl
  | dcdc
  deriving DecidableEq, Repr

/-- The signal id of a scalar line on `ev_sig` (R191). -/
def Line.id : Line → BitVec 4
  | .spv => 0
  | .ckv => 1
  | .mode => 2
  | .stl => 3
  | .oe => 4
  | .le => 5
  | .cl => 6
  | .dcdc => 8

/-- The signal id of the data bus (R191). -/
def busId : BitVec 4 := 7

/-- The register of a scalar line takes a bit. -/
def State.setLine (s : State) (sig : Line) (b : Bool) : State :=
  match sig with
  | .spv => { s with spv := b }
  | .ckv => { s with ckv := b }
  | .mode => { s with mode := b }
  | .stl => { s with stl := b }
  | .oe => { s with oe := b }
  | .le => { s with le := b }
  | .cl => { s with cl := b }
  | .dcdc => { s with dcdc := b }

/-- The level of a scalar line. -/
def State.line (s : State) (sig : Line) : Bool :=
  match sig with
  | .spv => s.spv
  | .ckv => s.ckv
  | .mode => s.mode
  | .stl => s.stl
  | .oe => s.oe
  | .le => s.le
  | .cl => s.cl
  | .dcdc => s.dcdc

/-- The trace port shows a pin event (R190). -/
def State.record (s : State) (sig : BitVec 4) (v : Byte) : State := { s with evValid := true, evSig := sig, evVal := v }

/-- The trace port shows no pin event; `ev_sig` and `ev_val` keep their values (R190). -/
def State.noEvent (s : State) : State := { s with evValid := false }

/-- `PinWrite(sig, b)`: one pin event, even if the level does not change (R13, R123). -/
def State.pinWrite (s : State) (sig : Line) (b : Bool) : State := (s.setLine sig b).record sig.id (zext8 b)

/-- `BusWrite(v)`: all eight bits of `d` at one edge, one pin event (R13, R78). -/
def State.busWrite (s : State) (v : Byte) : State := ({ s with d := v } : State).record busId v

/-- What a phase does when it fires (R115). -/
inductive Action where
  /-- `PinWrite(sig, b)`. -/
  | pinWrite (sig : Line) (b : Bool)
  /-- `BusWrite(StreamRead())`. -/
  | busWriteStream
  /-- EN_SETTLE: no event (R110). -/
  | wait
  deriving DecidableEq, Repr

/-- A row of PHASE_TABLE (R115): what the phase does, how many edges it needs, and the phase that follows; `none` is DONE. -/
structure PhaseRow where
  action : Action
  req : Nat
  next : Option Phase
  deriving DecidableEq, Repr

/-- A phase performs its event at the edge. -/
def perform (a : Action) (s : State) : State :=
  match a with
  | .pinWrite sig b => s.pinWrite sig b
  | .busWriteStream => s.busWrite s.streamRead
  | .wait => s.noEvent

/-- Acceptance of a legal command (R113): the order check, then the capture of the command; no pin event. -/
def accept (op : Opcode) (n : BitVec 16) (first : Phase) (s : State) : State :=
  { (checkOrder op s).noEvent with busy := true, op := op.bits, size := n, idx := 0, cnt := 0, phase := first }

/-- Completion (R117). -/
def complete (op : Opcode) (s : State) : State := { s with busy := false, phase := .idle, cnt := 0, life := nextLife s.life op }

/-- The fire condition (R112, R114): enough edges, and in WR_DATA a byte. -/
def State.fires (s : State) (r : PhaseRow) : Bool :=
  decide (r.req ≤ s.cnt + 1) && (!decide (s.phase = .wrData) || s.input.dinValid)

/-- A phase fires (R112): its event, `cnt` to 0, `idx` in WR_CL_LO, then the next phase or completion. -/
def fire (op : Opcode) (r : PhaseRow) (s : State) : State :=
  let done : State := { perform r.action s with cnt := 0, idx := if s.phase = .wrClLo then s.idx + 1 else s.idx }
  match r.next with
  | none => complete op done
  | some p => { done with phase := p }

/-- A phase does not fire: only the counter moves (R112, R164). -/
def hold (s : State) : State := { s.noEvent with cnt := s.cfg.sat (s.cnt + 1) }

/-- An edge of a command in execution, at the row of its phase. A phase that is none of the command's is stuck (log 5). -/
def sequencerEdge (op : Opcode) (row : Option PhaseRow) (s : State) : Outcome :=
  match row with
  | none => .fault .strayPhase
  | some r => .next (if s.fires r then fire op r s else hold s)

/-- One edge of a command: acceptance when the block is not busy, else the phase it stands at (R112; log 4). -/
def commandEdge (op : Opcode) (n : BitVec 16) (first : Phase) (row : Option PhaseRow) (s : State) : Outcome :=
  if s.busy then sequencerEdge op row s else .next (accept op n first s)

/-- A reset edge (R210 to R213): every register takes its reset value; the build parameters stay. -/
def resetEdge (s : State) : State := State.resetOf s.cfg s.inputs

/-- An edge at which a block that is not busy is offered nothing (R112). -/
def idleEdge (s : State) : State := s.noEvent

/-- An illegal word is consumed: only its fault bit changes (R98). -/
def illegalEdge (s : State) : State := raiseFault .illegalCmd s.noEvent

end Sys2Proof.Machine
end

