-- ==== Sys2Proof/Machine/Frame.lean ====
section
/-! DEFINITION. The frame bracketing commands (42_frame.md): START_FRAME and END_FRAME. -/

namespace Sys2Proof.Machine

/-- START_FRAME's rows of PHASE_TABLE (R115, R150): the CKV pulse lies inside the SPV low window (R151). -/
def startFrameRow (s : State) : Option PhaseRow :=
  match s.phase with
  | .sfOeHi => some { action := .pinWrite .oe true, req := s.cfg.gap, next := some .sfModeHi }
  | .sfModeHi => some { action := .pinWrite .mode true, req := s.cfg.gap, next := some .sfSpvLo }
  | .sfSpvLo => some { action := .pinWrite .spv false, req := s.cfg.gap, next := some .sfCkvLo }
  | .sfCkvLo => some { action := .pinWrite .ckv false, req := s.cfg.gap, next := some .sfCkvHi }
  | .sfCkvHi => some { action := .pinWrite .ckv true, req := s.cfg.hold, next := some .sfSpvHi }
  | .sfSpvHi => some { action := .pinWrite .spv true, req := s.cfg.gap, next := none }
  | _ => none

/-- START_FRAME (R150 to R152). -/
def execStartFrame (s : State) : Outcome := commandEdge .startFrame 0 .sfOeHi (startFrameRow s) s

/-- END_FRAME's rows of PHASE_TABLE (R115, R153). -/
def endFrameRow (s : State) : Option PhaseRow :=
  match s.phase with
  | .efModeLo => some { action := .pinWrite .mode false, req := s.cfg.gap, next := some .efOeLo }
  | .efOeLo => some { action := .pinWrite .oe false, req := s.cfg.gap, next := none }
  | _ => none

/-- END_FRAME (R153, R154). -/
def execEndFrame (s : State) : Outcome := commandEdge .endFrame 0 .efModeLo (endFrameRow s) s

end Sys2Proof.Machine
end

