-- ==== Sys2Proof/Machine/Power.lean ====
section
/-! DEFINITION. The power sequencing commands (41_power.md): ENABLE and DISABLE. -/

namespace Sys2Proof.Machine

/-- ENABLE's rows of PHASE_TABLE (R115, R140). -/
def enableRow (s : State) : Option PhaseRow :=
  match s.phase with
  | .enDcdcLo => some { action := .pinWrite .dcdc false, req := s.cfg.gap, next := some .enSettle }
  | .enSettle => some { action := .wait, req := s.cfg.settle, next := none }
  | _ => none

/-- ENABLE (R140 to R142): the converter on, then the settle wait, after which the command completes. -/
def execEnable (s : State) : Outcome := commandEdge .enable 0 .enDcdcLo (enableRow s) s

/-- DISABLE's row of PHASE_TABLE (R115, R143). -/
def disableRow (s : State) : Option PhaseRow :=
  match s.phase with
  | .disDcdcHi => some { action := .pinWrite .dcdc true, req := s.cfg.gap, next := none }
  | _ => none

/-- DISABLE (R143, R144): the converter off, with no wait after the event. -/
def execDisable (s : State) : Outcome := commandEdge .disable 0 .disDcdcHi (disableRow s) s

end Sys2Proof.Machine
end

