-- ==== Sys2Proof/Machine/Row.lean ====
section
/-! DEFINITION. The row emission command (43_row.md): WRITE_ROW n, with its byte loop (R161) and its tail (R162). -/

namespace Sys2Proof.Machine

/-- WRITE_ROW's rows of PHASE_TABLE (R115, R160). The two branches read `size` and `idx` before the edge; `idx + 1 < size` is on integers,
with no wrap (R169). -/
def writeRowRow (s : State) : Option PhaseRow :=
  match s.phase with
  | .wrStlLo =>
    some { action := .pinWrite .stl false, req := s.cfg.gap, next := some (if s.size = 0 then .wrStlHi else .wrData) }
  | .wrData => some { action := .busWriteStream, req := s.cfg.gap, next := some .wrClHi }
  | .wrClHi => some { action := .pinWrite .cl true, req := s.cfg.gap, next := some .wrClLo }
  | .wrClLo =>
    some { action := .pinWrite .cl false, req := s.cfg.gap,
           next := some (if s.idx.toNat + 1 < s.size.toNat then .wrData else .wrStlHi) }
  | .wrStlHi => some { action := .pinWrite .stl true, req := s.cfg.gap, next := some .wrXclHi }
  | .wrXclHi => some { action := .pinWrite .cl true, req := s.cfg.gap, next := some .wrXclLo }
  | .wrXclLo => some { action := .pinWrite .cl false, req := s.cfg.gap, next := some .wrLeHi }
  | .wrLeHi => some { action := .pinWrite .le true, req := s.cfg.gap, next := some .wrLeLo }
  | .wrLeLo => some { action := .pinWrite .le false, req := s.cfg.gap, next := some .wrCkvLo }
  | .wrCkvLo => some { action := .pinWrite .ckv false, req := s.cfg.gap, next := some .wrCkvHi }
  | .wrCkvHi => some { action := .pinWrite .ckv true, req := s.cfg.hold, next := none }
  | _ => none

/-- WRITE_ROW n (R160 to R169). The bytes come from the stream, one byte handshake each (R71, R73). -/
def execWriteRow (n : BitVec 16) (s : State) : Outcome := commandEdge .writeRow n .wrStlLo (writeRowRow s) s

end Sys2Proof.Machine
end

