-- ==== Sys2Proof/Machine/Dispatch.lean ====
section
/-! DEFINITION. One arm per command: one clock edge of the command, its acceptance or the phase it stands at (log 4). -/

namespace Sys2Proof.Machine

def exec (i : Instr) (s : State) : Host.Outcome State Fault Refusal :=
  match i with
  | .enable => Sys2Proof.Machine.execEnable s
  | .disable => Sys2Proof.Machine.execDisable s
  | .startFrame => Sys2Proof.Machine.execStartFrame s
  | .endFrame => Sys2Proof.Machine.execEndFrame s
  | .writeRow n => Sys2Proof.Machine.execWriteRow n s

end Sys2Proof.Machine
end

