-- ==== Sys2Proof/Machine/Edge.lean ====
section
/-! DEFINITION. One rising edge of `clk` (40_sequencer.md R112) around the meanings of the commands, and how the host offers a command. -/

namespace Sys2Proof.Machine

/-- After the edge, the inputs of the following edge come next. -/
def advance : Outcome → Outcome
  | .next t => .next t.nextEdge
  | .fault r => .fault r
  | .refused r => .refused r

/-- A block that is not busy is offered a word (R113): a legal one is accepted by its command's meaning, an illegal one is consumed (R98). -/
def offered (w : Word) (s : State) : Outcome :=
  match decode w with
  | .illegal _ => .next (illegalEdge s)
  | .cmd i => exec i s

/-- A busy block runs the command it captured; where `op` holds no opcode it is stuck (log 5). -/
def continueCommand (s : State) : Outcome :=
  match s.running with
  | none => .fault .noCommand
  | some i => exec i s

/-- What the registers do at an edge, for build parameters that may be built: reset first (R184, R211), then the command in execution, then an
offered word. -/
def edgeEffect (s : State) : Outcome :=
  if s.input.rst then .next (resetEdge s)
  else if s.busy then continueCommand s
  else if s.input.cmdValid then offered s.input.cmd s
  else .next (idleEdge s)

/-- One rising edge. Build parameters that break 00_scope.md R10 are refused (D37; log 9). -/
def clockEdge (s : State) : Outcome := if s.cfg.ok then advance (edgeEffect s) else .refused .invalidConfig

/-- The host offers a word at the next edge, to a block that is ready: no reset there, `cmd_valid` = 1, the byte port as it was. A command still
in execution is given up, since a busy block takes no word (R111; log 3). -/
def offerWord (w : Word) (s : State) : State :=
  { s with
    busy := false
    phase := if s.busy then .idle else s.phase
    inputs := { s.input with rst := false, cmdValid := true, cmd := w } :: s.inputs.tail }

end Sys2Proof.Machine
end

