-- ==== Sys2Proof/Machine/Step.lean ====
section
/-! DEFINITION. The step of the machine is one rising edge of `clk` (40_sequencer.md R112). -/

namespace Sys2Proof.Machine

/-- One step: one rising edge (Sys2Proof/Machine/Edge.lean). -/
def step (s : State) : Host.Outcome State Fault Refusal := clockEdge s

/-- The word of a table row offered on `cmd` at the next edge, so that the next step accepts it (log 3). -/
def State.withFetchWord (s : State) (nbits w : Nat) : State := offerWord (tableWord nbits w) s

end Sys2Proof.Machine
end

