-- ==== Sys2Proof/Machine/Rules.lean ====
section
/-! DEFINITION. The spec's own pseudocode of one edge (40_sequencer.md R112, R113, R117) over its PHASE_TABLE (R115) and FIRST table (R116), kept
as data in the order of the spec. The machine (Sys2Proof/Machine/Edge.lean) is built command by command; this second reading of the same rules
is what a statement compares it with. -/

namespace Sys2Proof.Machine

/-- The `req` column of R115. -/
inductive Wait where
  | g
  | h
  | s
  deriving DecidableEq, Repr

/-- The `next` column of R115. -/
inductive After where
  | go (p : Phase)
  /-- `if size == 0 then WR_STL_HI else WR_DATA`. -/
  | byEmptyRow
  /-- `if idx + 1 < size then WR_DATA else WR_STL_HI`. -/
  | byMoreBytes
  | done
  deriving DecidableEq, Repr

/-- A row of the table of R115. -/
structure TableRow where
  phase : Phase
  action : Action
  wait : Wait
  after : After
  deriving DecidableEq, Repr

/-- PHASE_TABLE (R115). -/
def phaseTable : List TableRow :=
  [⟨.enDcdcLo, .pinWrite .dcdc false, .g, .go .enSettle⟩,
   ⟨.enSettle, .wait, .s, .done⟩,
   ⟨.disDcdcHi, .pinWrite .dcdc true, .g, .done⟩,
   ⟨.sfOeHi, .pinWrite .oe true, .g, .go .sfModeHi⟩,
   ⟨.sfModeHi, .pinWrite .mode true, .g, .go .sfSpvLo⟩,
   ⟨.sfSpvLo, .pinWrite .spv false, .g, .go .sfCkvLo⟩,
   ⟨.sfCkvLo, .pinWrite .ckv false, .g, .go .sfCkvHi⟩,
   ⟨.sfCkvHi, .pinWrite .ckv true, .h, .go .sfSpvHi⟩,
   ⟨.sfSpvHi, .pinWrite .spv true, .g, .done⟩,
   ⟨.efModeLo, .pinWrite .mode false, .g, .go .efOeLo⟩,
   ⟨.efOeLo, .pinWrite .oe false, .g, .done⟩] ++
  [⟨.wrStlLo, .pinWrite .stl false, .g, .byEmptyRow⟩,
   ⟨.wrData, .busWriteStream, .g, .go .wrClHi⟩,
   ⟨.wrClHi, .pinWrite .cl true, .g, .go .wrClLo⟩,
   ⟨.wrClLo, .pinWrite .cl false, .g, .byMoreBytes⟩,
   ⟨.wrStlHi, .pinWrite .stl true, .g, .go .wrXclHi⟩,
   ⟨.wrXclHi, .pinWrite .cl true, .g, .go .wrXclLo⟩,
   ⟨.wrXclLo, .pinWrite .cl false, .g, .go .wrLeHi⟩,
   ⟨.wrLeHi, .pinWrite .le true, .g, .go .wrLeLo⟩,
   ⟨.wrLeLo, .pinWrite .le false, .g, .go .wrCkvLo⟩,
   ⟨.wrCkvLo, .pinWrite .ckv false, .g, .go .wrCkvHi⟩,
   ⟨.wrCkvHi, .pinWrite .ckv true, .h, .done⟩]

/-- FIRST (R116). -/
def firstPhase : Opcode → Phase
  | .enable => .enDcdcLo
  | .disable => .disDcdcHi
  | .startFrame => .sfOeHi
  | .endFrame => .efModeLo
  | .writeRow => .wrStlLo

/-- The edges a `req` stands for. -/
def Wait.edges (c : Config) : Wait → Nat
  | .g => c.gap
  | .h => c.hold
  | .s => c.settle

/-- `next(σ)`, on the values before the edge; `none` is DONE. -/
def After.target (s : State) : After → Option Phase
  | .go p => some p
  | .byEmptyRow => some (if s.size.toNat = 0 then .wrStlHi else .wrData)
  | .byMoreBytes => some (if s.idx.toNat + 1 < s.size.toNat then .wrData else .wrStlHi)
  | .done => none

/-- `accept(σ, σ', w)` of R113, where σ' is σ with `ev_valid` at 0. -/
def ruleAccept (s : State) (w : Word) : State :=
  match decode w with
  | .illegal _ => { s with evValid := false, faultIllegal := true }
  | .cmd i =>
    { s with
      evValid := false
      faultOrder := s.faultOrder || !allowed s.life i.opcode
      busy := true
      op := i.opcode.bits
      size := i.size
      idx := 0
      cnt := 0
      phase := firstPhase i.opcode }

/-- `complete(σ, σ')` of R117; none where `op` holds no opcode, for which R121 has no row. -/
def ruleComplete (s t : State) : Option State :=
  (Opcode.ofBits s.op).map fun o => { t with busy := false, phase := .idle, cnt := 0, life := nextLife s.life o }

/-- The event of a firing phase on σ' (R115, R190). -/
def ruleEvent (s : State) : Action → State
  | .pinWrite sig b => { s.setLine sig b with evValid := true, evSig := sig.id, evVal := zext8 b }
  | .busWriteStream => { s with d := s.input.din, evValid := true, evSig := busId, evVal := s.input.din }
  | .wait => { s with evValid := false }

/-- `step(σ, in)` of R112 with `in` the inputs sampled at the edge; none where PHASE_TABLE has no row for the phase. -/
def ruleStep (s : State) : Option State :=
  if s.input.rst then some (State.resetOf s.cfg s.inputs)
  else if s.busy = false then
    some (if s.input.cmdValid then ruleAccept s s.input.cmd else { s with evValid := false })
  else if s.phase = .enSettle then
    if s.cfg.settle ≤ s.cnt + 1 then ruleComplete s { s with evValid := false }
    else some { s with evValid := false, cnt := s.cfg.sat (s.cnt + 1) }
  else
    match phaseTable.find? fun r => decide (r.phase = s.phase) with
    | none => none
    | some r =>
      if r.wait.edges s.cfg ≤ s.cnt + 1 ∧ (s.phase ≠ .wrData ∨ s.input.dinValid = true) then
        let fired : State := { ruleEvent s r.action with cnt := 0, idx := if s.phase = .wrClLo then s.idx + 1 else s.idx }
        match r.after.target s with
        | none => ruleComplete s fired
        | some p => some { fired with phase := p }
      else some { s with evValid := false, cnt := s.cfg.sat (s.cnt + 1) }

end Sys2Proof.Machine
end

