-- ==== Sys2Proof/Safety.lean ====
section
/-! DEFINITION. The terms that claims use: runs of many edges and their observation (40_sequencer.md R124), faulted states (60_exceptions.md
R185), event sequences (00_scope.md R14), and the invariant that ties the lines, the lifecycle and the counters to the phase. -/

namespace Sys2Proof.Machine

/-- k edges, stopping at the first fault or refusal. -/
def run : Nat → State → Outcome
  | 0, s => .next s
  | k + 1, s =>
    match step s with
    | .next t => run k t
    | .fault r => .fault r
    | .refused r => .refused r

/-- A pin event as the trace port shows it (R190). -/
structure Event where
  sig : BitVec 4
  val : Byte
  deriving DecidableEq, Repr

/-- The scalar event `(sig, b)` (R13). -/
def Line.event (sig : Line) (b : Bool) : Event := { sig := sig.id, val := zext8 b }

/-- The bus event `(D, v)` (R13). -/
def busEvent (v : Byte) : Event := { sig := busId, val := v }

/-- The pin event that fired at the last edge, if one did: `ev_valid` says so (R190). -/
def State.lastEvent (s : State) : Option Event := if s.evValid then some { sig := s.evSig, val := s.evVal } else none

/-- The event trace of the next k edges, the first of them numbered e: a pair (edge, event) for every pin event, in edge order (R124). -/
def traceFrom : Nat → Nat → State → List (Nat × Event)
  | _, 0, _ => []
  | e, k + 1, s =>
    match step s with
    | .next t => (t.lastEvent.toList.map fun v => (e, v)) ++ traceFrom (e + 1) k t
    | .fault _ => []
    | .refused _ => []

/-- The event trace of the next k edges, numbered from 0. -/
def State.trace (s : State) (k : Nat) : List (Nat × Event) := traceFrom 0 k s

/-- The start of a run: the next edge is a reset edge, of a block that may be built (R124). It is edge 0 of the run's trace. -/
abbrev RunStart (s : State) : Prop := s.cfg.ok = true ∧ s.input.rst = true

/-- A run ends here: the block is quiescent and the host offers no further command, `cmd_valid` being 0 at every coming edge (R124; log 14). -/
abbrev Ended (s : State) : Prop := s.busy = false ∧ ∀ e ∈ s.inputs, e.cmdValid = false

/-- The observation of a finite run (R124): the event trace, and the final values of the registers of 10_state.md R34 (the nine lines), R40
(`life`) and R47 (the two fault bits). -/
structure Observation where
  trace : List (Nat × Event)
  lines : Lines
  life : Life
  faultIllegal : Bool
  faultOrder : Bool
  deriving DecidableEq, Repr

/-- What the run of k edges from s is observed as; none where it has not ended, or has stopped (R124). -/
def State.observation (s : State) (k : Nat) : Option Observation :=
  match run k s with
  | .next t =>
    if Ended t then
      some { trace := s.trace k, lines := t.lines, life := t.life, faultIllegal := t.faultIllegal, faultOrder := t.faultOrder }
    else none
  | .fault _ => none
  | .refused _ => none

/-- The bytes taken off the stream in the next k edges, in order (R72). -/
def bytesTaken : Nat → State → List Byte
  | 0, _ => []
  | k + 1, s =>
    match step s with
    | .next t => (if s.takesByte then [s.input.din] else []) ++ bytesTaken k t
    | .fault _ => []
    | .refused _ => []

/-- No reset at the next k edges. -/
def NoReset (k : Nat) (s : State) : Prop := ∀ j, j < k → (s.inputAt j).rst = false

/-- The block is quiescent (R124). -/
abbrev Quiescent (s : State) : Prop := s.busy = false

/-- A fault is recorded (R185). -/
abbrev Faulted (s : State) : Prop := s.faultIllegal = true ∨ s.faultOrder = true

/-- The host offers the word w at the next edge, with no reset there, to a quiescent block whose build parameters are legal: exactly when
a command handshake completes (R113) on a block that may be built (R10). -/
structure Offered (s : State) (w : Word) : Prop where
  ok : s.cfg.ok = true
  ready : s.busy = false
  noRst : s.input.rst = false
  valid : s.input.cmdValid = true
  word : s.input.cmd = w

/-- The tail of a row's event sequence (R162). -/
def rowTail : List Event :=
  [Line.stl.event true, Line.cl.event true, Line.cl.event false, Line.le.event true, Line.le.event false,
   Line.ckv.event false, Line.ckv.event true]

/-- The event sequence of a command, given the row bytes for WRITE_ROW (R14; R140, R143, R150, R153, R160). -/
def eventSequence : Instr → List Byte → List Event
  | .enable, _ => [Line.dcdc.event false]
  | .disable, _ => [Line.dcdc.event true]
  | .startFrame, _ =>
    [Line.oe.event true, Line.mode.event true, Line.spv.event false, Line.ckv.event false, Line.ckv.event true,
     Line.spv.event true]
  | .endFrame, _ => [Line.mode.event false, Line.oe.event false]
  | .writeRow _, bytes =>
    Line.stl.event false :: (bytes.flatMap fun b => [busEvent b, Line.cl.event true, Line.cl.event false]) ++ rowTail

/-- The edges waited for bytes before byte i of a row, where `w j` are those waited for byte j (R118, R165). -/
def waitedBefore (w : Nat → Nat) : Nat → Nat
  | 0 => 0
  | i + 1 => waitedBefore w i + w i

/-- The edge, from acceptance, at which byte i of a row is written (R118, R165). -/
def byteEdge (g : Nat) (w : Nat → Nat) (i : Nat) : Nat := (3 * i + 2) * g + waitedBefore w (i + 1)

/-- From acceptance to completion of `WRITE_ROW n` (R165, R222). -/
def rowEdges (g h : Nat) (w : Nat → Nat) (n : Nat) : Nat := (3 * n + 7) * g + h + waitedBefore w n

/-- The events of `WRITE_ROW n` at their edges from acceptance, byte i being `v i` (R118, R160). -/
def rowSchedule (g h : Nat) (w : Nat → Nat) (v : Nat → Byte) (n : Nat) : List (Nat × Event) :=
  let q := waitedBefore w n
  (g, Line.stl.event false) ::
    ((List.range n).flatMap fun i =>
      [(byteEdge g w i, busEvent (v i)), (byteEdge g w i + g, Line.cl.event true), (byteEdge g w i + 2 * g, Line.cl.event false)]) ++
    [((3 * n + 2) * g + q, Line.stl.event true), ((3 * n + 3) * g + q, Line.cl.event true),
     ((3 * n + 4) * g + q, Line.cl.event false), ((3 * n + 5) * g + q, Line.le.event true),
     ((3 * n + 6) * g + q, Line.le.event false), ((3 * n + 7) * g + q, Line.ckv.event false),
     ((3 * n + 7) * g + h + q, Line.ckv.event true)]

/-- Byte i of a row comes after `w i` edges of waiting: `din_valid` is 0 while the block waits for it, and 1 at its edge (R118, R164). -/
def BytesComeAfter (s : State) (w : Nat → Nat) (n : Nat) : Prop :=
  ∀ i, i < n →
    (∀ j, j < w i → (s.inputAt ((3 * i + 2) * s.cfg.gap + waitedBefore w i + j)).dinValid = false) ∧
    (s.inputAt (byteEdge s.cfg.gap w i)).dinValid = true

/-- A command is in execution in each of the k states after the next k edges. -/
def BusyThrough (k : Nat) (s : State) : Prop := ∀ j, 1 ≤ j → j ≤ k → ∃ t, run j s = .next t ∧ t.busy = true

/-- The phases of each operation (R115, R116). -/
def phasesOf : Opcode → List Phase
  | .enable => [.enDcdcLo, .enSettle]
  | .disable => [.disDcdcHi]
  | .startFrame => [.sfOeHi, .sfModeHi, .sfSpvLo, .sfCkvLo, .sfCkvHi, .sfSpvHi]
  | .endFrame => [.efModeLo, .efOeLo]
  | .writeRow =>
    [.wrStlLo, .wrData, .wrClHi, .wrClLo, .wrStlHi, .wrXclHi, .wrXclLo, .wrLeHi, .wrLeLo, .wrCkvLo, .wrCkvHi]

/-- The sequencer's registers agree with one another (R43 to R46). -/
structure SequencerInv (s : State) : Prop where
  /-- `cnt` fits its `CNT_W` bits (R46). -/
  cnt_fits : s.cnt ≤ counterMax s.cfg.cntW
  /-- `phase = IDLE` if and only if `busy = 0` (R44). -/
  idle_iff : s.phase = .idle ↔ s.busy = false
  /-- A busy block stands at a phase of the command it captured (R45, R115). -/
  phase_of_op : s.busy = true → ∃ o, Opcode.ofBits s.op = some o ∧ s.phase ∈ phasesOf o
  /-- `size` is 0 for every command but WRITE_ROW (R45). -/
  size_zero : s.op ≠ Opcode.writeRow.bits → s.size = 0
  /-- `idx ≤ size` (R45). -/
  idx_le : s.idx.toNat ≤ s.size.toNat
  /-- A row has not shifted anything before its first phase has fired (R161). -/
  idx_start : s.phase = .wrStlLo → s.idx = 0
  /-- Inside the byte loop a byte is still to come (R161, R169). -/
  idx_loop : s.phase ∈ [.wrData, .wrClHi, .wrClLo] → s.idx.toNat < s.size.toNat
  /-- In the tail of a row all its bytes have been shifted (R161). -/
  idx_tail : s.phase ∈ [.wrStlHi, .wrXclHi, .wrXclLo, .wrLeHi, .wrLeLo, .wrCkvLo, .wrCkvHi] → s.idx = s.size

/-- The pulse lines are active exactly in their pulses (R151, R161, R162). -/
structure PulseInv (s : State) : Prop where
  /-- SPV is low exactly in START_FRAME's window (R151). -/
  spv_low : s.spv = false ↔ s.phase ∈ [.sfCkvLo, .sfCkvHi, .sfSpvHi]
  /-- CKV is low exactly in the CKV pulse of START_FRAME and WRITE_ROW. -/
  ckv_low : s.ckv = false ↔ s.phase ∈ [.sfCkvHi, .wrCkvHi]
  /-- STL is low exactly from a row's first event to the end of its byte loop (R161, R162). -/
  stl_low : s.stl = false ↔ s.phase ∈ [.wrData, .wrClHi, .wrClLo, .wrStlHi]
  /-- CL is high exactly in its pulses, for a build whose pad resets low (U4). -/
  cl_high : s.cfg.padCl = false → (s.cl = true ↔ s.phase ∈ [.wrClLo, .wrXclLo])
  /-- LE is high exactly in its pulse, for a build whose pad resets low (U4). -/
  le_high : s.cfg.padLe = false → (s.le = true ↔ s.phase = .wrLeLo)

/-- The lifecycle state agrees with DCDC, OE and MODE (R121, R155, R192). -/
structure LifecycleInv (s : State) : Prop where
  /-- The converter is on during the settle wait (R140). -/
  dcdc_settle : s.phase = .enSettle → s.dcdc = false
  /-- Otherwise Disabled means that the converter is off, and the other states that it is on (R192). -/
  dcdc_life : s.phase ≠ .enSettle → (s.life = .disabled ↔ s.dcdc = true)
  /-- START_FRAME has raised OE and then MODE (R151). -/
  oe_setup : s.phase ∈ [.sfModeHi, .sfSpvLo, .sfCkvLo, .sfCkvHi, .sfSpvHi] → s.oe = true
  mode_setup : s.phase ∈ [.sfSpvLo, .sfCkvLo, .sfCkvHi, .sfSpvHi] → s.mode = true
  /-- In an open frame OE is high, and MODE is high until END_FRAME has lowered it (R155). -/
  oe_frame : s.life = .frameOpen → s.oe = true
  mode_frame : s.life = .frameOpen → s.phase ≠ .efOeLo → s.mode = true
  mode_end : s.phase = .efOeLo → s.mode = false
  /-- A command in execution that raised no fault is a contract transition (R42, R122). -/
  in_order : s.busy = true → s.faultOrder = false → ∃ o, Opcode.ofBits s.op = some o ∧ allowed s.life o = true
  /-- With no order fault and the spec's pad levels, MODE and OE are low outside a frame and its setup (R150, R153). -/
  low_outside : s.faultOrder = false → s.cfg.SpecPads → s.life ≠ .frameOpen →
    s.phase ∉ [.sfModeHi, .sfSpvLo, .sfCkvLo, .sfCkvHi, .sfSpvHi] → s.oe = false ∧ s.mode = false

/-- What every reachable state satisfies. -/
structure Consistent (s : State) : Prop where
  sequencer : SequencerInv s
  pulses : PulseInv s
  lifecycle : LifecycleInv s

end Sys2Proof.Machine
end

