-- ==== Sys2Proof/Certificates/Slice0/Obligations.lean ====
section
/-! DEFINITION. The statements for the provers. Each docstring names the rule of spec/ that the statement formalises. -/

open Sys2Proof Sys2Proof.Machine

-- ==== Encoding ====

/-- The opcode assignment (30_encoding.md R92), with the words of the table: the four fixed words, the WRITE_ROW word of every n, and every
other opcode reserved. -/
def Obligations.TableWordsDecodeToTheirCommands : Prop :=
  decode 0x00000001#32 = .cmd .enable ∧ decode 0x00000002#32 = .cmd .disable ∧ decode 0x00000003#32 = .cmd .startFrame ∧
  decode 0x00000004#32 = .cmd .endFrame ∧
  (∀ n : BitVec 16, decode ((n.setWidth 32 <<< 16) ||| 0x00000005#32) = .cmd (.writeRow n)) ∧
  (∀ w : Word, w.opField = 0x0#4 ∨ 0x6#4 ≤ w.opField → legalWord w = false)

/-- The decoder is the rule's function, and exactly 65540 words are legal (R93). -/
def Obligations.DecoderIsTheRuleWith65540LegalWords : Prop :=
  (∀ w : Word, w.rsvField ≠ 0 → ∃ why, decode w = .illegal why) ∧
  (∀ w : Word, w.rsvField = 0 → w.opField = 0x5#4 → decode w = .cmd (.writeRow w.sizeField)) ∧
  (∀ (w : Word) (i : Instr), i.opcode ≠ .writeRow → w.rsvField = 0 → w.opField = i.opcode.bits →
    (w.sizeField = 0 → decode w = .cmd i) ∧ (w.sizeField ≠ 0 → ∃ why, decode w = .illegal why)) ∧
  (∀ w : Word, w.opField ∉ [0x1#4, 0x2#4, 0x3#4, 0x4#4, 0x5#4] → ∃ why, decode w = .illegal why) ∧
  ((Finset.range (2 ^ 32)).filter fun x => legalWord (BitVec.ofNat 32 x) = true).card = 65540

/-- Decode and encode agree, both ways: a word decodes to a command exactly when it is that command's word (R91 to R94). -/
def Obligations.DecodeAndEncodeAgree : Prop :=
  ∀ (w : Word) (i : Instr), decode w = .cmd i ↔ w = encode i

/-- The reserved and illegal encodings (R95, R96, R97). -/
def Obligations.ReservedWordsAreIllegal : Prop :=
  (∀ w : Word, w.opField = 0x0#4 ∨ 0x6#4 ≤ w.opField → legalWord w = false) ∧
  legalWord 0x00000000#32 = false ∧
  (∀ w : Word, w.rsvField ≠ 0 → legalWord w = false) ∧
  (∀ w : Word, 0x1#4 ≤ w.opField → w.opField ≤ 0x4#4 → w.sizeField ≠ 0 → legalWord w = false)

/-- The expansions of the pseudo-instructions (R101). -/
def Obligations.PseudoInstructionsExpand : Prop :=
  AsmLine.expand .writeRowEmpty = [.writeRow 0 []] ∧
  (∀ rows, AsmLine.expand (.frame rows) = [.startFrame] ++ rows.map (fun r => .writeRow r.length r) ++ [.endFrame]) ∧
  (∀ rows, AsmLine.expand (.cycle rows) = [.enable] ++ AsmLine.expand (.frame rows) ++ [.disable])

/-- What the assembler refuses and what it gives (R100): every word decodes to its line's command, and WRITE_ROW n comes with n stream bytes of
the written values. -/
def Obligations.AssembledLinesDecodeBack : Prop :=
  (∀ l : AsmLine, l.wellFormed = false → assemble l = none) ∧
  (∀ (n : Nat) (bytes : List Nat), (AsmLine.core (.writeRow n bytes)).wellFormed = true ↔
    bytes.length = n ∧ n ≤ 65535 ∧ ∀ b ∈ bytes, b ≤ 255) ∧
  (∀ l : AsmLine, l.wellFormed = true → ∃ out, assemble l = some out ∧
    out.map (fun x => decode x.1) = l.expand.map (fun c => .cmd c.instr) ∧
    (∀ x ∈ out, ∀ i, decode x.1 = .cmd i → x.2.length = i.size.toNat) ∧
    out.map (fun x => x.2.map BitVec.toNat) = l.expand.map fun c =>
      match c with
      | .writeRow _ bytes => bytes
      | .enable => []
      | .disable => []
      | .startFrame => []
      | .endFrame => [])

-- ==== Build parameters ====

/-- The derived cycle counts (00_scope.md R9): C and S are ceilings of exact rationals, H is the larger of G and C, and both waits last at least
the times they stand for. -/
def Obligations.CycleCountsAreCeilings : Prop :=
  (∀ ns hz : Nat, ns * hz ≤ cyclesFor ns hz * 1000000000 ∧ cyclesFor ns hz * 1000000000 < ns * hz + 1000000000) ∧
  (∀ c : Config,
    c.ckvLow = cyclesFor c.tCkvLowNs c.fClkHz ∧ c.settle = cyclesFor c.tDcdcSettleNs c.fClkHz ∧
    c.hold = max c.gap c.ckvLow ∧
    c.tCkvLowNs * c.fClkHz ≤ c.hold * 1000000000 ∧ c.tDcdcSettleNs * c.fClkHz ≤ c.settle * 1000000000)

/-- The constraints on build parameters, and the refusal of a configuration that breaks one (00_scope.md R10). R10 says that a model refuses it
and not at which step: that every step does, reset edges included, is the model's choice (log 9). -/
def Obligations.IllegalConfigurationIsRefused : Prop :=
  (∀ c : Config, c.ok = true ↔
    1 ≤ c.fClkHz ∧ 1 ≤ c.gap ∧ 1 ≤ c.tCkvLowNs ∧ 1 ≤ c.tDcdcSettleNs ∧
    max c.gap (max c.hold c.settle) ≤ 2 ^ c.cntW - 1 ∧ c.sizeW = 16) ∧
  (∀ c : Config, c.ok = true → 1 ≤ c.ckvLow ∧ 1 ≤ c.settle) ∧
  (∀ s : State, s.cfg.ok = false → step s = .refused .invalidConfig) ∧
  (∀ s : State, s.cfg.ok = true → step s ≠ .refused .invalidConfig)

/-- The defaults of the build parameters (00_scope.md R8): the default of CNT_W is the smallest width that reaches max(G, H, S), whatever the
parameters it depends on, and the other defaults are those of the table. -/
def Obligations.DefaultCounterWidthIsSmallest : Prop :=
  (∀ c : Config, c.longestWait ≤ 2 ^ c.minCntW - 1 ∧ ∀ w : Nat, c.longestWait ≤ 2 ^ w - 1 → c.minCntW ≤ w) ∧
  (∀ hz g ckv dcdc : Nat,
    let c : Config := { fClkHz := hz, gap := g, tCkvLowNs := ckv, tDcdcSettleNs := dcdc }
    c.cntW = c.minCntW ∧ max g (max c.hold c.settle) ≤ 2 ^ c.cntW - 1 ∧
    ∀ w : Nat, max g (max c.hold c.settle) ≤ 2 ^ w - 1 → c.cntW ≤ w) ∧
  (∀ hz : Nat,
    let c : Config := { fClkHz := hz }
    c.gap = 1 ∧ c.tCkvLowNs = 1000 ∧ c.tDcdcSettleNs = 100000000 ∧ c.sizeW = 16)

-- ==== One edge ====

/-- A step runs the decoded command: offered a word that decodes to i, a quiescent block's step is exec of i, after which the next inputs come. -/
def Obligations.StepRunsTheOfferedCommand : Prop :=
  ∀ (s : State) (w : Word) (i : Instr), Offered s w → decode w = .cmd i → step s = advance (exec i s)

/-- A step of a busy block runs the command that `op` and `size` captured. -/
def Obligations.StepRunsTheCapturedCommand : Prop :=
  ∀ (s : State) (i : Instr), s.cfg.ok = true → s.input.rst = false → s.busy = true → s.op = i.opcode.bits → s.size = i.size →
    step s = advance (exec i s)

/-- A table word placed by `withFetchWord` is what the very next step runs, on any block that may be built. -/
def Obligations.PlacedWordIsRunByTheNextStep : Prop :=
  ∀ (s : State) (nbits w : Nat) (i : Instr), s.cfg.ok = true → decodeTableWord nbits w = some i →
    step (s.withFetchWord nbits w) = advance (exec i (s.withFetchWord nbits w)) ∧
    (s.busy = false → s.withFetchWord nbits w =
      { s with inputs := { s.input with rst := false, cmdValid := true, cmd := tableWord nbits w } :: s.inputs.tail })

/-- An illegal word is consumed and only its fault bit changes (30_encoding.md R98); `ev_valid` falls as at every edge without an event. -/
def Obligations.IllegalWordOnlyRecordsItsFault : Prop :=
  ∀ (s : State) (w : Word), Offered s w → legalWord w = false →
    step s = .next { s with evValid := false, faultIllegal := true, inputs := s.inputs.tail }

/-- Offered nothing, a quiescent block keeps every register but `ev_valid` (R112, R192). -/
def Obligations.QuietEdgeKeepsEveryRegister : Prop :=
  ∀ s : State, s.cfg.ok = true → s.busy = false → s.input.rst = false → s.input.cmdValid = false →
    step s = .next { s with evValid := false, inputs := s.inputs.tail }

/-- A reset edge, whatever the state before and whatever is offered (70_reset_and_hazards.md R210, R211): every register takes its value of
10_state.md R50; MODE, OE, LE, CL and d take the pad levels of the build, which are 0 and 0x00 for the spec's own (U4, U5; log 7). -/
def Obligations.ResetEdgeWinsOverEverything : Prop :=
  ∀ s : State, s.cfg.ok = true → s.input.rst = true →
    ∃ t, step s = .next t ∧ s.takesCommand = false ∧ s.takesByte = false ∧ t.inputs = s.inputs.tail ∧ t.cfg = s.cfg ∧
      t.spv = true ∧ t.ckv = true ∧ t.stl = true ∧ t.dcdc = true ∧
      t.mode = s.cfg.padMode ∧ t.oe = s.cfg.padOe ∧ t.le = s.cfg.padLe ∧ t.cl = s.cfg.padCl ∧ t.d = s.cfg.padD ∧
      (s.cfg.SpecPads → t.mode = false ∧ t.oe = false ∧ t.le = false ∧ t.cl = false ∧ t.d = 0x00#8) ∧
      t.life = .disabled ∧ t.busy = false ∧ t.phase = .idle ∧ t.op = 0 ∧ t.size = 0 ∧ t.idx = 0 ∧ t.cnt = 0 ∧
      t.faultOrder = false ∧ t.faultIllegal = false ∧ t.evValid = false ∧ t.evSig = 0 ∧ t.evVal = 0

/-- The outputs after reset (70_reset_and_hazards.md R214, 10_state.md R50) of the machine with the spec's pad levels. That State.reset carries the
example parameters and has no input to come is the model's choice (logs 1 and 2). -/
def Obligations.OutputsAfterReset : Prop :=
  ∀ (c : Config) (inputs : List EdgeInput), c.SpecPads →
    (State.resetOf c inputs).cmdReady = true ∧ (State.resetOf c inputs).dinReady = false ∧
    (State.resetOf c inputs).status = 0x00#8 ∧
    (State.resetOf c inputs).lines =
      { spv := true, ckv := true, mode := false, stl := true, oe := false, le := false, cl := false, dcdc := true, d := 0x00 } ∧
    State.reset = State.resetOf Config.sample [] ∧ Config.sample.SpecPads

/-- The combinational outputs (40_sequencer.md R111) and the layout of the status word (10_state.md R48). -/
def Obligations.OutputsAreFunctionsOfTheRegisters : Prop :=
  ∀ s : State,
    (s.cmdReady = true ↔ s.busy = false) ∧
    (s.dinReady = true ↔ s.busy = true ∧ s.phase = .wrData ∧ s.cfg.gap ≤ s.cnt + 1) ∧
    s.status.extractLsb' 0 2 = s.life.code ∧ s.status.getLsbD 2 = s.busy ∧ s.status.getLsbD 3 = s.faultOrder ∧
    s.status.getLsbD 4 = s.faultIllegal ∧ s.status.extractLsb' 5 3 = 0 ∧
    Life.code .disabled = 0x0#2 ∧ Life.code .idle = 0x1#2 ∧ Life.code .frameOpen = 0x2#2

-- ==== Acceptance and phases, command by command ====

/-- Acceptance of every command (40_sequencer.md R113, R116, R122): exec answers a next state in which the command is captured, its FIRST phase
comes next, a forbidden lifecycle state is recorded, and nothing else changes. -/
def Obligations.AcceptanceCapturesTheCommand : Prop :=
  ∀ s : State, s.busy = false →
    exec .enable s = .next { s with
      evValid := false, faultOrder := s.faultOrder || decide (s.life ≠ .disabled), busy := true, op := 0x1, size := 0, idx := 0, cnt := 0,
      phase := .enDcdcLo } ∧
    exec .disable s = .next { s with
      evValid := false, faultOrder := s.faultOrder || decide (s.life ≠ .idle), busy := true, op := 0x2, size := 0, idx := 0, cnt := 0,
      phase := .disDcdcHi } ∧
    exec .startFrame s = .next { s with
      evValid := false, faultOrder := s.faultOrder || decide (s.life ≠ .idle), busy := true, op := 0x3, size := 0, idx := 0, cnt := 0,
      phase := .sfOeHi } ∧
    exec .endFrame s = .next { s with
      evValid := false, faultOrder := s.faultOrder || decide (s.life ≠ .frameOpen), busy := true, op := 0x4, size := 0, idx := 0, cnt := 0,
      phase := .efModeLo } ∧
    ∀ n, exec (.writeRow n) s = .next { s with
      evValid := false, faultOrder := s.faultOrder || decide (s.life ≠ .frameOpen), busy := true, op := 0x5, size := n, idx := 0, cnt := 0,
      phase := .wrStlLo }

/-- ENABLE's phases (40_sequencer.md R115, 41_power.md R140): what each does when it fires, and that nothing else changes. -/
def Obligations.EnablePhasesFire : Prop :=
  ∀ s : State, s.busy = true →
    (s.phase = .enDcdcLo → s.cfg.gap ≤ s.cnt + 1 → exec .enable s = .next { s with
      dcdc := false, evValid := true, evSig := 8, evVal := 0x00, cnt := 0, phase := .enSettle }) ∧
    (s.phase = .enSettle → s.cfg.settle ≤ s.cnt + 1 → exec .enable s = .next { s with
      evValid := false, cnt := 0, busy := false, phase := .idle, life := if s.life = .disabled then .idle else s.life })

/-- DISABLE's phase (40_sequencer.md R115, 41_power.md R143). -/
def Obligations.DisablePhaseFires : Prop :=
  ∀ s : State, s.busy = true → s.phase = .disDcdcHi → s.cfg.gap ≤ s.cnt + 1 →
    exec .disable s = .next { s with
      dcdc := true, evValid := true, evSig := 8, evVal := 0x01, cnt := 0, busy := false, phase := .idle, life := .disabled }

/-- START_FRAME's phases (40_sequencer.md R115, 42_frame.md R150). -/
def Obligations.StartFramePhasesFire : Prop :=
  ∀ s : State, s.busy = true →
    (s.phase = .sfOeHi → s.cfg.gap ≤ s.cnt + 1 → exec .startFrame s = .next { s with
      oe := true, evValid := true, evSig := 4, evVal := 0x01, cnt := 0, phase := .sfModeHi }) ∧
    (s.phase = .sfModeHi → s.cfg.gap ≤ s.cnt + 1 → exec .startFrame s = .next { s with
      mode := true, evValid := true, evSig := 2, evVal := 0x01, cnt := 0, phase := .sfSpvLo }) ∧
    (s.phase = .sfSpvLo → s.cfg.gap ≤ s.cnt + 1 → exec .startFrame s = .next { s with
      spv := false, evValid := true, evSig := 0, evVal := 0x00, cnt := 0, phase := .sfCkvLo }) ∧
    (s.phase = .sfCkvLo → s.cfg.gap ≤ s.cnt + 1 → exec .startFrame s = .next { s with
      ckv := false, evValid := true, evSig := 1, evVal := 0x00, cnt := 0, phase := .sfCkvHi }) ∧
    (s.phase = .sfCkvHi → s.cfg.hold ≤ s.cnt + 1 → exec .startFrame s = .next { s with
      ckv := true, evValid := true, evSig := 1, evVal := 0x01, cnt := 0, phase := .sfSpvHi }) ∧
    (s.phase = .sfSpvHi → s.cfg.gap ≤ s.cnt + 1 → exec .startFrame s = .next { s with
      spv := true, evValid := true, evSig := 0, evVal := 0x01, cnt := 0, busy := false, phase := .idle,
      life := if s.life = .idle then .frameOpen else s.life })

/-- END_FRAME's phases (40_sequencer.md R115, 42_frame.md R153). -/
def Obligations.EndFramePhasesFire : Prop :=
  ∀ s : State, s.busy = true →
    (s.phase = .efModeLo → s.cfg.gap ≤ s.cnt + 1 → exec .endFrame s = .next { s with
      mode := false, evValid := true, evSig := 2, evVal := 0x00, cnt := 0, phase := .efOeLo }) ∧
    (s.phase = .efOeLo → s.cfg.gap ≤ s.cnt + 1 → exec .endFrame s = .next { s with
      oe := false, evValid := true, evSig := 4, evVal := 0x00, cnt := 0, busy := false, phase := .idle,
      life := if s.life = .frameOpen then .idle else s.life })

/-- WRITE_ROW's phases (40_sequencer.md R115, 43_row.md R160 to R162): the row's start, its byte loop and its tail. -/
def Obligations.WriteRowPhasesFire : Prop :=
  ∀ (n : BitVec 16) (s : State), s.busy = true →
    (s.phase = .wrStlLo → s.cfg.gap ≤ s.cnt + 1 → exec (.writeRow n) s = .next { s with
      stl := false, evValid := true, evSig := 3, evVal := 0x00, cnt := 0, phase := if s.size = 0 then .wrStlHi else .wrData }) ∧
    (s.phase = .wrData → s.cfg.gap ≤ s.cnt + 1 → s.input.dinValid = true → exec (.writeRow n) s = .next { s with
      d := s.input.din, evValid := true, evSig := 7, evVal := s.input.din, cnt := 0, phase := .wrClHi }) ∧
    (s.phase = .wrClHi → s.cfg.gap ≤ s.cnt + 1 → exec (.writeRow n) s = .next { s with
      cl := true, evValid := true, evSig := 6, evVal := 0x01, cnt := 0, phase := .wrClLo }) ∧
    (s.phase = .wrClLo → s.cfg.gap ≤ s.cnt + 1 → exec (.writeRow n) s = .next { s with
      cl := false, evValid := true, evSig := 6, evVal := 0x00, cnt := 0, idx := s.idx + 1,
      phase := if s.idx.toNat + 1 < s.size.toNat then .wrData else .wrStlHi }) ∧
    (s.phase = .wrStlHi → s.cfg.gap ≤ s.cnt + 1 → exec (.writeRow n) s = .next { s with
      stl := true, evValid := true, evSig := 3, evVal := 0x01, cnt := 0, phase := .wrXclHi }) ∧
    (s.phase = .wrXclHi → s.cfg.gap ≤ s.cnt + 1 → exec (.writeRow n) s = .next { s with
      cl := true, evValid := true, evSig := 6, evVal := 0x01, cnt := 0, phase := .wrXclLo }) ∧
    (s.phase = .wrXclLo → s.cfg.gap ≤ s.cnt + 1 → exec (.writeRow n) s = .next { s with
      cl := false, evValid := true, evSig := 6, evVal := 0x00, cnt := 0, phase := .wrLeHi }) ∧
    (s.phase = .wrLeHi → s.cfg.gap ≤ s.cnt + 1 → exec (.writeRow n) s = .next { s with
      le := true, evValid := true, evSig := 5, evVal := 0x01, cnt := 0, phase := .wrLeLo }) ∧
    (s.phase = .wrLeLo → s.cfg.gap ≤ s.cnt + 1 → exec (.writeRow n) s = .next { s with
      le := false, evValid := true, evSig := 5, evVal := 0x00, cnt := 0, phase := .wrCkvLo }) ∧
    (s.phase = .wrCkvLo → s.cfg.gap ≤ s.cnt + 1 → exec (.writeRow n) s = .next { s with
      ckv := false, evValid := true, evSig := 1, evVal := 0x00, cnt := 0, phase := .wrCkvHi }) ∧
    (s.phase = .wrCkvHi → s.cfg.hold ≤ s.cnt + 1 → exec (.writeRow n) s = .next { s with
      ckv := true, evValid := true, evSig := 1, evVal := 0x01, cnt := 0, busy := false, phase := .idle })

/-- A phase that cannot fire yet holds the block in place (40_sequencer.md R112, R114): too few edges, or no byte in WR_DATA. Only `ev_valid` and
the counter move. -/
def Obligations.PhaseThatCannotFireHolds : Prop :=
  ∀ (i : Instr) (s : State), s.busy = true → s.phase ∈ phasesOf i.opcode →
    (if s.phase = .enSettle then s.cnt + 1 < s.cfg.settle
     else if s.phase = .sfCkvHi ∨ s.phase = .wrCkvHi then s.cnt + 1 < s.cfg.hold
     else s.cnt + 1 < s.cfg.gap ∨ (s.phase = .wrData ∧ s.input.dinValid = false)) →
    exec i s = .next { s with evValid := false, cnt := min (s.cnt + 1) (2 ^ s.cfg.cntW - 1) }

/-- A phase that is none of the command's is stuck (the model's choice for states that no run reaches, after 10_state.md R52; log 5). -/
def Obligations.StrayPhaseIsStuck : Prop :=
  ∀ (i : Instr) (s : State), s.busy = true → (exec i s = .fault .strayPhase ↔ s.phase ∉ phasesOf i.opcode)

/-- The frame of every command in execution (40_sequencer.md R115; 10_state.md R34, R35): the lines it may write, and the registers that only
acceptance, completion or reset write. -/
def Obligations.CommandsKeepOtherRegisters : Prop :=
  ∀ (i : Instr) (s t : State), s.busy = true → exec i s = .next t →
    (i = .enable ∨ i = .disable → t.lines = { s.lines with dcdc := t.dcdc }) ∧
    (i = .startFrame → t.lines = { s.lines with oe := t.oe, mode := t.mode, spv := t.spv, ckv := t.ckv }) ∧
    (i = .endFrame → t.lines = { s.lines with mode := t.mode, oe := t.oe }) ∧
    ((∃ n, i = .writeRow n) → t.lines = { s.lines with stl := t.stl, d := t.d, cl := t.cl, le := t.le, ckv := t.ckv }) ∧
    t.op = s.op ∧ t.size = s.size ∧ (s.phase ≠ .wrClLo → t.idx = s.idx) ∧
    t.faultIllegal = s.faultIllegal ∧ t.faultOrder = s.faultOrder ∧ (t.busy = true → t.life = s.life) ∧
    t.cfg = s.cfg ∧ t.inputs = s.inputs

-- ==== Whole commands, from acceptance to completion ====

/-- ENABLE (41_power.md R140): accepted at edge 0, DCDC=low at edge G, completion at edge G + S, in any lifecycle state. -/
def Obligations.EnableRunsToCompletion : Prop :=
  (∀ s : State, Offered s 0x00000001#32 → NoReset (s.cfg.gap + s.cfg.settle + 1) s →
    (∃ t, exec .enable s = .next t ∧ run 1 s = .next t.nextEdge ∧ t.busy = true ∧ t.phase = .enDcdcLo ∧ t.evValid = false ∧
      t.faultOrder = (s.faultOrder || decide (s.life ≠ .disabled))) ∧
    s.trace (s.cfg.gap + s.cfg.settle + 1) = [(s.cfg.gap, Line.dcdc.event false)] ∧
    (∃ t, run (s.cfg.gap + 1) s = .next t ∧ t.dcdc = false ∧ t.phase = .enSettle) ∧
    BusyThrough (s.cfg.gap + s.cfg.settle) s ∧
    run (s.cfg.gap + s.cfg.settle + 1) s = .next { s with
      dcdc := false, life := if s.life = .disabled then .idle else s.life,
      faultOrder := s.faultOrder || decide (s.life ≠ .disabled),
      busy := false, phase := .idle, op := 0x1, size := 0, idx := 0, cnt := 0, evValid := false, evSig := 8, evVal := 0x00,
      inputs := s.inputs.drop (s.cfg.gap + s.cfg.settle + 1) } ∧
    s.cfg.tDcdcSettleNs * s.cfg.fClkHz ≤ s.cfg.settle * 1000000000) ∧
  (∀ w : Word, w.opField = 0x1#4 → w ≠ 0x00000001#32 → legalWord w = false)

/-- DISABLE (41_power.md R143): accepted at edge 0, DCDC=high and completion at edge G, in any lifecycle state. -/
def Obligations.DisableRunsToCompletion : Prop :=
  ∀ s : State, Offered s 0x00000002#32 → NoReset (s.cfg.gap + 1) s →
    (∃ t, exec .disable s = .next t ∧ run 1 s = .next t.nextEdge ∧ t.busy = true ∧ t.phase = .disDcdcHi ∧ t.evValid = false ∧
      t.faultOrder = (s.faultOrder || decide (s.life ≠ .idle))) ∧
    s.trace (s.cfg.gap + 1) = [(s.cfg.gap, Line.dcdc.event true)] ∧
    BusyThrough s.cfg.gap s ∧
    run (s.cfg.gap + 1) s = .next { s with
      dcdc := true, life := .disabled, faultOrder := s.faultOrder || decide (s.life ≠ .idle),
      busy := false, phase := .idle, op := 0x2, size := 0, idx := 0, cnt := 0, evValid := true, evSig := 8, evVal := 0x01,
      inputs := s.inputs.drop (s.cfg.gap + 1) }

/-- START_FRAME (42_frame.md R150): six events at their edges, completion at edge 5G + H, in any lifecycle state. -/
def Obligations.StartFrameRunsToCompletion : Prop :=
  ∀ s : State, Offered s 0x00000003#32 → NoReset (5 * s.cfg.gap + s.cfg.hold + 1) s →
    (∃ t, exec .startFrame s = .next t ∧ run 1 s = .next t.nextEdge ∧ t.busy = true ∧ t.phase = .sfOeHi ∧ t.evValid = false ∧
      t.faultOrder = (s.faultOrder || decide (s.life ≠ .idle))) ∧
    s.trace (5 * s.cfg.gap + s.cfg.hold + 1) =
      [(s.cfg.gap, Line.oe.event true), (2 * s.cfg.gap, Line.mode.event true), (3 * s.cfg.gap, Line.spv.event false),
       (4 * s.cfg.gap, Line.ckv.event false), (4 * s.cfg.gap + s.cfg.hold, Line.ckv.event true),
       (5 * s.cfg.gap + s.cfg.hold, Line.spv.event true)] ∧
    BusyThrough (5 * s.cfg.gap + s.cfg.hold) s ∧
    run (5 * s.cfg.gap + s.cfg.hold + 1) s = .next { s with
      oe := true, mode := true, spv := true, ckv := true, life := if s.life = .idle then .frameOpen else s.life,
      faultOrder := s.faultOrder || decide (s.life ≠ .idle),
      busy := false, phase := .idle, op := 0x3, size := 0, idx := 0, cnt := 0, evValid := true, evSig := 0, evVal := 0x01,
      inputs := s.inputs.drop (5 * s.cfg.gap + s.cfg.hold + 1) } ∧
    s.cfg.tCkvLowNs * s.cfg.fClkHz ≤ s.cfg.hold * 1000000000

/-- END_FRAME (42_frame.md R153): two events at their edges, completion at edge 2G, in any lifecycle state. -/
def Obligations.EndFrameRunsToCompletion : Prop :=
  ∀ s : State, Offered s 0x00000004#32 → NoReset (2 * s.cfg.gap + 1) s →
    (∃ t, exec .endFrame s = .next t ∧ run 1 s = .next t.nextEdge ∧ t.busy = true ∧ t.phase = .efModeLo ∧ t.evValid = false ∧
      t.faultOrder = (s.faultOrder || decide (s.life ≠ .frameOpen))) ∧
    s.trace (2 * s.cfg.gap + 1) = [(s.cfg.gap, Line.mode.event false), (2 * s.cfg.gap, Line.oe.event false)] ∧
    BusyThrough (2 * s.cfg.gap) s ∧
    run (2 * s.cfg.gap + 1) s = .next { s with
      mode := false, oe := false, life := if s.life = .frameOpen then .idle else s.life,
      faultOrder := s.faultOrder || decide (s.life ≠ .frameOpen),
      busy := false, phase := .idle, op := 0x4, size := 0, idx := 0, cnt := 0, evValid := true, evSig := 4, evVal := 0x00,
      inputs := s.inputs.drop (2 * s.cfg.gap + 1) }

/-- WRITE_ROW n (43_row.md R160, R165; 40_sequencer.md R118), for every n and every pattern of data waits: its 3n + 8 events at their edges, and
completion at edge (3n + 7)G + H plus the edges waited for data. -/
def Obligations.WriteRowRunsToCompletion : Prop :=
  ∀ (s : State) (n : BitVec 16) (w : Nat → Nat), Offered s ((n.setWidth 32 <<< 16) ||| 0x00000005#32) →
    NoReset (rowEdges s.cfg.gap s.cfg.hold w n.toNat + 1) s → BytesComeAfter s w n.toNat →
    (∃ t, exec (.writeRow n) s = .next t ∧ run 1 s = .next t.nextEdge ∧ t.busy = true ∧ t.phase = .wrStlLo ∧ t.size = n ∧ t.idx = 0 ∧
      t.evValid = false ∧ t.faultOrder = (s.faultOrder || decide (s.life ≠ .frameOpen))) ∧
    s.trace (rowEdges s.cfg.gap s.cfg.hold w n.toNat + 1) =
      rowSchedule s.cfg.gap s.cfg.hold w (fun i => (s.inputAt (byteEdge s.cfg.gap w i)).din) n.toNat ∧
    BusyThrough (rowEdges s.cfg.gap s.cfg.hold w n.toNat) s ∧
    run (rowEdges s.cfg.gap s.cfg.hold w n.toNat + 1) s = .next { s with
      stl := true, cl := false, le := false, ckv := true,
      d := if n = 0 then s.d else (s.inputAt (byteEdge s.cfg.gap w (n.toNat - 1))).din,
      faultOrder := s.faultOrder || decide (s.life ≠ .frameOpen),
      busy := false, phase := .idle, op := 0x5, size := n, idx := n, cnt := 0, evValid := true, evSig := 1, evVal := 0x01,
      inputs := s.inputs.drop (rowEdges s.cfg.gap s.cfg.hold w n.toNat + 1) } ∧
    s.cfg.tCkvLowNs * s.cfg.fClkHz ≤ s.cfg.hold * 1000000000

/-- The events of any command, whatever the timing of the host (00_scope.md R14; 10_state.md R54; 20_memory.md R73): from acceptance to
completion they are the command's event sequence on the bytes taken, and a WRITE_ROW n takes exactly n bytes, any other command none. -/
def Obligations.EventsFollowTheEventSequence : Prop :=
  ∀ (s u : State) (i : Instr) (k : Nat), Offered s (encode i) → NoReset (k + 1) s → BusyThrough k s →
    run (k + 1) s = .next u → u.busy = false →
    (s.trace (k + 1)).map Prod.snd = eventSequence i (bytesTaken (k + 1) s) ∧
    (bytesTaken (k + 1) s).length = i.size.toNat

/-- A repeated ENABLE runs in full and leaves the lines and the lifecycle state as they were, and the violation is recorded (41_power.md R142). -/
def Obligations.RepeatedEnableLeavesTheLines : Prop :=
  ∀ s : State, Consistent s → s.life ≠ .disabled → Offered s 0x00000001#32 → NoReset (s.cfg.gap + s.cfg.settle + 1) s →
    ∃ t u, exec .enable s = .next t ∧ t.faultOrder = true ∧
      s.trace (s.cfg.gap + s.cfg.settle + 1) = [(s.cfg.gap, Line.dcdc.event false)] ∧ s.dcdc = false ∧
      BusyThrough (s.cfg.gap + s.cfg.settle) s ∧
      run (s.cfg.gap + s.cfg.settle + 1) s = .next u ∧ u.busy = false ∧ u.lines = s.lines ∧ u.life = s.life ∧ u.faultOrder = true

/-- DISABLE in Disabled and in FrameOpen (41_power.md R144): the violation is recorded, and MODE and OE stay as START_FRAME left them. -/
def Obligations.DisableOutOfOrder : Prop :=
  ∀ s : State, Consistent s → Offered s 0x00000002#32 → NoReset (s.cfg.gap + 1) s →
    (s.life = .disabled → ∃ u, run (s.cfg.gap + 1) s = .next u ∧ u.busy = false ∧ u.lines = s.lines ∧ s.dcdc = true ∧
      u.life = .disabled ∧ u.faultOrder = true) ∧
    (s.life = .frameOpen → ∃ u, run (s.cfg.gap + 1) s = .next u ∧ u.busy = false ∧ u.lines = { s.lines with dcdc := true } ∧
      u.mode = true ∧ u.oe = true ∧ u.life = .disabled ∧ u.faultOrder = true)

-- ==== The whole machine ====

/-- The reset state of every legal build satisfies the invariant (10_state.md R50). -/
def Obligations.ResetStateSatisfiesTheInvariant : Prop :=
  Consistent State.reset ∧ ∀ (c : Config) (inputs : List EdgeInput), Consistent (State.resetOf c inputs)

/-- Every step keeps the invariant, whatever the host presents. -/
def Obligations.EveryStepKeepsTheInvariant : Prop :=
  ∀ s t : State, Consistent s → step s = .next t → Consistent t

/-- No state that satisfies the invariant stops: for legal build parameters every step answers a next state (60_exceptions.md R185: the block
keeps stepping after a fault). -/
def Obligations.NoReachableStateStops : Prop :=
  ∀ s : State, Consistent s → s.cfg.ok = true → ∃ t, step s = .next t ∧ t.cfg = s.cfg

/-- The machine, built command by command, is the rules' one step over PHASE_TABLE, FIRST, accept and complete (40_sequencer.md R112, R113, R115,
R116, R117). -/
def Obligations.StepIsTheRulesStep : Prop :=
  ∀ s : State, Consistent s → s.cfg.ok = true → ∃ t, ruleStep s = some t ∧ step s = .next t.nextEdge

/-- At most one output register changes at an edge, and the trace port tells which (20_memory.md R79; 60_exceptions.md R190); several change only
at a reset edge, which is no event. -/
def Obligations.TracePortTellsTheOneChange : Prop :=
  ∀ s t : State, step s = .next t →
    (s.input.rst = true → t.evValid = false) ∧
    (s.input.rst = false → t.evValid = false → t.lines = s.lines ∧ t.evSig = s.evSig ∧ t.evVal = s.evVal) ∧
    (s.input.rst = false → t.evValid = true →
      (t.evSig = 7 ∧ t.lines = { s.lines with d := t.evVal }) ∨
      (∃ (sig : Line) (b : Bool), t.evSig = sig.id ∧ t.evVal = zext8 b ∧ t.lines = (s.setLine sig b).lines)) ∧
    (∀ sig : Line, sig.id.toNat < 9 ∧ sig.id ≠ 7)

/-- Two pin events are at least G edges apart, also across a command boundary and a reset (40_sequencer.md R119 (a)). -/
def Obligations.EventsAreAtLeastGapApart : Prop :=
  ∀ (s t u : State) (j : Nat), step s = .next t → t.evValid = true → 1 ≤ j → j < s.cfg.gap → run j t = .next u → u.evValid = false

/-- Every CKV low pulse lasts exactly H clock periods, which is at least T_CKV_LOW_NS (40_sequencer.md R119 (b); 00_scope.md R9). -/
def Obligations.CkvLowPulseLastsExactlyHold : Prop :=
  ∀ s t : State, Consistent s → step s = .next t → s.ckv = true → t.ckv = false → NoReset s.cfg.hold t →
    (∀ j, j < s.cfg.hold → ∃ u, run j t = .next u ∧ u.ckv = false) ∧
    (∃ u, run s.cfg.hold t = .next u ∧ u.ckv = true) ∧
    s.cfg.tCkvLowNs * s.cfg.fClkHz ≤ s.cfg.hold * 1000000000

/-- After ENABLE's DCDC event no command is accepted for S edges, and no pin event fires before S + 1 + G edges (40_sequencer.md R119 (c);
41_power.md R141). -/
def Obligations.NothingHappensDuringTheSettle : Prop :=
  ∀ s t : State, Consistent s → step s = .next t → s.phase = .enDcdcLo → t.evValid = true → NoReset (s.cfg.settle + s.cfg.gap) t →
    (∀ j, j < s.cfg.settle → ∃ u, run j t = .next u ∧ u.takesCommand = false) ∧
    (∃ u, run s.cfg.settle t = .next u ∧ u.busy = false) ∧
    (∀ j u, 1 ≤ j → j ≤ s.cfg.settle + s.cfg.gap → run j t = .next u → u.evValid = false)

/-- The two fault bits are sticky (10_state.md R47; 60_exceptions.md R182, R184): without reset a bit is set exactly if it was set or its cause
occurs at this edge, the decoder deciding first; a reset edge clears both. -/
def Obligations.FaultBitsAreSticky : Prop :=
  ∀ s t : State, step s = .next t →
    (s.input.rst = true → t.faultIllegal = false ∧ t.faultOrder = false) ∧
    (s.input.rst = false →
      (t.faultIllegal = true ↔ s.faultIllegal = true ∨ (s.takesCommand = true ∧ legalWord s.input.cmd = false)) ∧
      (t.faultOrder = true ↔ s.faultOrder = true ∨
        (s.takesCommand = true ∧ ∃ i, decode s.input.cmd = .cmd i ∧ (s.life, i.opcode) ∉
          [(Life.disabled, Opcode.enable), (.idle, .disable), (.idle, .startFrame), (.frameOpen, .writeRow), (.frameOpen, .endFrame)])))

/-- The lifecycle state is written at completion only, by the table of 40_sequencer.md R121. -/
def Obligations.LifecycleFollowsTheTable : Prop :=
  (∀ s t : State, s.input.rst = false → step s = .next t →
    (s.busy = true ∧ t.busy = false → ∃ o, Opcode.ofBits s.op = some o ∧ t.life = nextLife s.life o) ∧
    (¬(s.busy = true ∧ t.busy = false) → t.life = s.life)) ∧
  nextLife .disabled .enable = .idle ∧ nextLife .idle .enable = .idle ∧ nextLife .frameOpen .enable = .frameOpen ∧
  nextLife .disabled .disable = .disabled ∧ nextLife .idle .disable = .disabled ∧ nextLife .frameOpen .disable = .disabled ∧
  nextLife .disabled .startFrame = .disabled ∧ nextLife .idle .startFrame = .frameOpen ∧ nextLife .frameOpen .startFrame = .frameOpen ∧
  nextLife .disabled .endFrame = .disabled ∧ nextLife .idle .endFrame = .idle ∧ nextLife .frameOpen .endFrame = .idle ∧
  nextLife .disabled .writeRow = .disabled ∧ nextLife .idle .writeRow = .idle ∧ nextLife .frameOpen .writeRow = .frameOpen

/-- The contract transitions are exactly five (10_state.md R42). -/
def Obligations.ContractTransitionsAreFive : Prop :=
  ∀ (l : Life) (o : Opcode), allowed l o = true ↔ (l, o) ∈
    [(Life.disabled, Opcode.enable), (.idle, .disable), (.idle, .startFrame), (.frameOpen, .writeRow), (.frameOpen, .endFrame)]

/-- Neither the lifecycle state nor the faults steer the block (10_state.md R54; 60_exceptions.md R180, R181): two states that differ in them
alone take steps that differ in them alone. -/
def Obligations.LifecycleAndFaultsDoNotSteer : Prop :=
  ∀ (s t : State) (l : Life) (fi fo : Bool), step s = .next t →
    ∃ l' fi' fo', step { s with life := l, faultIllegal := fi, faultOrder := fo } =
      .next { t with life := l', faultIllegal := fi', faultOrder := fo' }

/-- `cmd` is sampled only at an acceptance edge and `din` only at a byte-handshake edge (70_reset_and_hazards.md R220); while a command runs the
command port is ignored altogether (20_memory.md R84; 40_sequencer.md R125), and `din_valid` counts only where `din_ready` is 1. -/
def Obligations.InputsCountOnlyAtTheirHandshakes : Prop :=
  ∀ s : State,
    (∀ w, s.takesCommand = false → step { s with inputs := { s.input with cmd := w } :: s.inputs.tail } = step s) ∧
    (∀ v, s.takesByte = false → step { s with inputs := { s.input with din := v } :: s.inputs.tail } = step s) ∧
    (∀ b w, s.busy = true → step { s with inputs := { s.input with cmdValid := b, cmd := w } :: s.inputs.tail } = step s) ∧
    (∀ b, s.dinReady = false → step { s with inputs := { s.input with dinValid := b } :: s.inputs.tail } = step s)

/-- The data bus changes only where a byte handshake completes, and then takes that byte (10_state.md R36; 20_memory.md R72, R74). -/
def Obligations.DataBusKeepsTheLastByte : Prop :=
  ∀ s t : State, s.input.rst = false → step s = .next t → t.d = if s.takesByte = true then s.input.din else s.d

/-- DCDC is driven low by ENABLE alone and high by DISABLE alone (41_power.md R145). -/
def Obligations.OnlyPowerCommandsDriveDcdc : Prop :=
  (∀ s t : State, s.input.rst = false → step s = .next t → t.evValid = true → t.evSig = Line.dcdc.id →
    (t.dcdc = false → s.running = some .enable) ∧ (t.dcdc = true → s.running = some .disable)) ∧
  (∀ s t : State, s.input.rst = false → step s = .next t → t.dcdc ≠ s.dcdc →
    t.evSig = Line.dcdc.id ∧ t.evValid = true) ∧
  (∀ (c : Config) (inputs : List EdgeInput), (State.resetOf c inputs).dcdc = true)

/-- A row whose byte never comes waits for ever (43_row.md R168, R164): for every k, after k edges without a byte the block is still busy in
WR_DATA with STL low and every line as it was, and takes no command; a reset edge leaves this state. -/
def Obligations.MissingByteHangsTheRow : Prop :=
  (∀ (s : State) (k : Nat), Consistent s → s.cfg.ok = true → s.phase = .wrData → NoReset k s →
    (∀ j, j < k → (s.inputAt j).dinValid = false) →
    ∃ u, run k s = .next u ∧ u.busy = true ∧ u.phase = .wrData ∧ u.stl = false ∧ u.lines = s.lines ∧ u.idx = s.idx ∧
      u.takesCommand = false) ∧
  (∀ s : State, s.cfg.ok = true → s.phase = .wrData → s.input.rst = true →
    step s = .next (State.resetOf s.cfg s.inputs.tail))

/-- The counter saturates and a saturated counter still satisfies every `req` (40_sequencer.md R120). -/
def Obligations.SaturatedCounterStillFires : Prop :=
  (∀ s t : State, s.busy = true → step s = .next t → t.cnt ≤ 2 ^ s.cfg.cntW - 1) ∧
  (∀ s : State, s.cfg.ok = true → s.cnt = 2 ^ s.cfg.cntW - 1 →
    s.cfg.gap ≤ s.cnt + 1 ∧ s.cfg.hold ≤ s.cnt + 1 ∧ s.cfg.settle ≤ s.cnt + 1) ∧
  (∀ s t : State, s.busy = true → s.input.rst = false → step s = .next t → t.busy = true → t.phase = s.phase →
    (s.cfg.gap ≤ s.cnt + 1 → s.phase = .wrData → s.cfg.gap ≤ t.cnt + 1))

/-- A reset during a row's CKV low pulse (70_reset_and_hazards.md R212; 90_conflicts.md C10): SPV, STL, CL and LE are at their reset levels
already, CKV rises, and in an open frame with the converter on DCDC rises and MODE and OE fall. -/
def Obligations.ResetInARowsCkvPulse : Prop :=
  ∀ s : State, Consistent s → s.cfg.ok = true → s.cfg.SpecPads → s.phase = .wrCkvHi → s.input.rst = true →
    ∃ t, step s = .next t ∧ s.busy = true ∧ t.busy = false ∧ t.evValid = false ∧ s.ckv = false ∧ t.ckv = true ∧
      t.spv = s.spv ∧ t.stl = s.stl ∧ t.cl = s.cl ∧ t.le = s.le ∧ t.d = 0x00#8 ∧
      (s.life = .frameOpen → s.dcdc = false ∧ t.dcdc = true ∧ s.mode = true ∧ t.mode = false ∧ s.oe = true ∧ t.oe = false)

-- ==== The end of a run and its observation ====

/-- Runs from a reset edge, their end and their observation (40_sequencer.md R124): the reset edge is edge 0, gives the reset state and no event; a
run is observed exactly where the block is quiescent and the host offers no further command, as its trace with the final lines, lifecycle state and
fault bits; and from then on, without another reset, the observation stays what it is, so that it is one of the run and not of the moment. That no
further command is offered is read as `cmd_valid` = 0 at every coming edge (log 14). -/
def Obligations.RunIsObservedAtItsEnd : Prop :=
  (∀ s : State, RunStart s → run 1 s = .next (State.resetOf s.cfg s.inputs.tail) ∧ s.trace 1 = []) ∧
  (∀ (s t : State) (k : Nat), run k s = .next t →
    (t.busy = true → s.observation k = none) ∧
    ((∃ e ∈ t.inputs, e.cmdValid = true) → s.observation k = none) ∧
    (t.busy = false → (∀ e ∈ t.inputs, e.cmdValid = false) → s.observation k = some
      { trace := s.trace k, lines := t.lines, life := t.life, faultIllegal := t.faultIllegal, faultOrder := t.faultOrder })) ∧
  (∀ (s t : State) (o : Observation) (j k : Nat), s.cfg.ok = true → run k s = .next t → s.observation k = some o → NoReset j t →
    s.observation (k + j) = some o)

/-- A run in which WR_DATA waits for ever does not end (40_sequencer.md R124; 43_row.md R168): after a run of any length to a WR_DATA phase, as long
as no byte and no reset comes, nothing is observed. -/
def Obligations.RunThatWaitsForAByteDoesNotEnd : Prop :=
  ∀ (s t : State) (j k : Nat), Consistent t → t.cfg.ok = true → run k s = .next t → t.phase = .wrData → NoReset j t →
    (∀ i, i < j → (t.inputAt i).dinValid = false) → s.observation (k + j) = none
end

