-- ==== Sys2Proof/Laws/State.lean ====
section
/-! SUPPORT. One lemma per field per operation on State, so that no later proof unfolds a record update. -/

namespace Sys2Proof.Machine

-- nextEdge
@[simp] theorem State.nextEdge_spv (s : State) : s.nextEdge.spv = s.spv := rfl
@[simp] theorem State.nextEdge_ckv (s : State) : s.nextEdge.ckv = s.ckv := rfl
@[simp] theorem State.nextEdge_mode (s : State) : s.nextEdge.mode = s.mode := rfl
@[simp] theorem State.nextEdge_stl (s : State) : s.nextEdge.stl = s.stl := rfl
@[simp] theorem State.nextEdge_oe (s : State) : s.nextEdge.oe = s.oe := rfl
@[simp] theorem State.nextEdge_le (s : State) : s.nextEdge.le = s.le := rfl
@[simp] theorem State.nextEdge_cl (s : State) : s.nextEdge.cl = s.cl := rfl
@[simp] theorem State.nextEdge_dcdc (s : State) : s.nextEdge.dcdc = s.dcdc := rfl
@[simp] theorem State.nextEdge_d (s : State) : s.nextEdge.d = s.d := rfl
@[simp] theorem State.nextEdge_life (s : State) : s.nextEdge.life = s.life := rfl
@[simp] theorem State.nextEdge_busy (s : State) : s.nextEdge.busy = s.busy := rfl
@[simp] theorem State.nextEdge_phase (s : State) : s.nextEdge.phase = s.phase := rfl
@[simp] theorem State.nextEdge_op (s : State) : s.nextEdge.op = s.op := rfl
@[simp] theorem State.nextEdge_size (s : State) : s.nextEdge.size = s.size := rfl
@[simp] theorem State.nextEdge_idx (s : State) : s.nextEdge.idx = s.idx := rfl
@[simp] theorem State.nextEdge_cnt (s : State) : s.nextEdge.cnt = s.cnt := rfl
@[simp] theorem State.nextEdge_faultIllegal (s : State) : s.nextEdge.faultIllegal = s.faultIllegal := rfl
@[simp] theorem State.nextEdge_faultOrder (s : State) : s.nextEdge.faultOrder = s.faultOrder := rfl
@[simp] theorem State.nextEdge_evValid (s : State) : s.nextEdge.evValid = s.evValid := rfl
@[simp] theorem State.nextEdge_evSig (s : State) : s.nextEdge.evSig = s.evSig := rfl
@[simp] theorem State.nextEdge_evVal (s : State) : s.nextEdge.evVal = s.evVal := rfl
@[simp] theorem State.nextEdge_cfg (s : State) : s.nextEdge.cfg = s.cfg := rfl
@[simp] theorem State.nextEdge_inputs (s : State) : s.nextEdge.inputs = s.inputs.tail := rfl

-- noEvent
@[simp] theorem State.noEvent_spv (s : State) : s.noEvent.spv = s.spv := rfl
@[simp] theorem State.noEvent_ckv (s : State) : s.noEvent.ckv = s.ckv := rfl
@[simp] theorem State.noEvent_mode (s : State) : s.noEvent.mode = s.mode := rfl
@[simp] theorem State.noEvent_stl (s : State) : s.noEvent.stl = s.stl := rfl
@[simp] theorem State.noEvent_oe (s : State) : s.noEvent.oe = s.oe := rfl
@[simp] theorem State.noEvent_le (s : State) : s.noEvent.le = s.le := rfl
@[simp] theorem State.noEvent_cl (s : State) : s.noEvent.cl = s.cl := rfl
@[simp] theorem State.noEvent_dcdc (s : State) : s.noEvent.dcdc = s.dcdc := rfl
@[simp] theorem State.noEvent_d (s : State) : s.noEvent.d = s.d := rfl
@[simp] theorem State.noEvent_life (s : State) : s.noEvent.life = s.life := rfl
@[simp] theorem State.noEvent_busy (s : State) : s.noEvent.busy = s.busy := rfl
@[simp] theorem State.noEvent_phase (s : State) : s.noEvent.phase = s.phase := rfl
@[simp] theorem State.noEvent_op (s : State) : s.noEvent.op = s.op := rfl
@[simp] theorem State.noEvent_size (s : State) : s.noEvent.size = s.size := rfl
@[simp] theorem State.noEvent_idx (s : State) : s.noEvent.idx = s.idx := rfl
@[simp] theorem State.noEvent_cnt (s : State) : s.noEvent.cnt = s.cnt := rfl
@[simp] theorem State.noEvent_faultIllegal (s : State) : s.noEvent.faultIllegal = s.faultIllegal := rfl
@[simp] theorem State.noEvent_faultOrder (s : State) : s.noEvent.faultOrder = s.faultOrder := rfl
@[simp] theorem State.noEvent_evValid (s : State) : s.noEvent.evValid = false := rfl
@[simp] theorem State.noEvent_evSig (s : State) : s.noEvent.evSig = s.evSig := rfl
@[simp] theorem State.noEvent_evVal (s : State) : s.noEvent.evVal = s.evVal := rfl
@[simp] theorem State.noEvent_cfg (s : State) : s.noEvent.cfg = s.cfg := rfl
@[simp] theorem State.noEvent_inputs (s : State) : s.noEvent.inputs = s.inputs := rfl

-- record
@[simp] theorem State.record_spv (s : State) (sig : BitVec 4) (v : Byte) : (s.record sig v).spv = s.spv := rfl
@[simp] theorem State.record_ckv (s : State) (sig : BitVec 4) (v : Byte) : (s.record sig v).ckv = s.ckv := rfl
@[simp] theorem State.record_mode (s : State) (sig : BitVec 4) (v : Byte) : (s.record sig v).mode = s.mode := rfl
@[simp] theorem State.record_stl (s : State) (sig : BitVec 4) (v : Byte) : (s.record sig v).stl = s.stl := rfl
@[simp] theorem State.record_oe (s : State) (sig : BitVec 4) (v : Byte) : (s.record sig v).oe = s.oe := rfl
@[simp] theorem State.record_le (s : State) (sig : BitVec 4) (v : Byte) : (s.record sig v).le = s.le := rfl
@[simp] theorem State.record_cl (s : State) (sig : BitVec 4) (v : Byte) : (s.record sig v).cl = s.cl := rfl
@[simp] theorem State.record_dcdc (s : State) (sig : BitVec 4) (v : Byte) : (s.record sig v).dcdc = s.dcdc := rfl
@[simp] theorem State.record_d (s : State) (sig : BitVec 4) (v : Byte) : (s.record sig v).d = s.d := rfl
@[simp] theorem State.record_life (s : State) (sig : BitVec 4) (v : Byte) : (s.record sig v).life = s.life := rfl
@[simp] theorem State.record_busy (s : State) (sig : BitVec 4) (v : Byte) : (s.record sig v).busy = s.busy := rfl
@[simp] theorem State.record_phase (s : State) (sig : BitVec 4) (v : Byte) : (s.record sig v).phase = s.phase := rfl
@[simp] theorem State.record_op (s : State) (sig : BitVec 4) (v : Byte) : (s.record sig v).op = s.op := rfl
@[simp] theorem State.record_size (s : State) (sig : BitVec 4) (v : Byte) : (s.record sig v).size = s.size := rfl
@[simp] theorem State.record_idx (s : State) (sig : BitVec 4) (v : Byte) : (s.record sig v).idx = s.idx := rfl
@[simp] theorem State.record_cnt (s : State) (sig : BitVec 4) (v : Byte) : (s.record sig v).cnt = s.cnt := rfl
@[simp] theorem State.record_faultIllegal (s : State) (sig : BitVec 4) (v : Byte) : (s.record sig v).faultIllegal = s.faultIllegal := rfl
@[simp] theorem State.record_faultOrder (s : State) (sig : BitVec 4) (v : Byte) : (s.record sig v).faultOrder = s.faultOrder := rfl
@[simp] theorem State.record_evValid (s : State) (sig : BitVec 4) (v : Byte) : (s.record sig v).evValid = true := rfl
@[simp] theorem State.record_evSig (s : State) (sig : BitVec 4) (v : Byte) : (s.record sig v).evSig = sig := rfl
@[simp] theorem State.record_evVal (s : State) (sig : BitVec 4) (v : Byte) : (s.record sig v).evVal = v := rfl
@[simp] theorem State.record_cfg (s : State) (sig : BitVec 4) (v : Byte) : (s.record sig v).cfg = s.cfg := rfl
@[simp] theorem State.record_inputs (s : State) (sig : BitVec 4) (v : Byte) : (s.record sig v).inputs = s.inputs := rfl

-- setLine
@[simp] theorem State.setLine_d (s : State) (sig : Line) (b : Bool) : (s.setLine sig b).d = s.d := by cases sig <;> rfl
@[simp] theorem State.setLine_life (s : State) (sig : Line) (b : Bool) : (s.setLine sig b).life = s.life := by cases sig <;> rfl
@[simp] theorem State.setLine_busy (s : State) (sig : Line) (b : Bool) : (s.setLine sig b).busy = s.busy := by cases sig <;> rfl
@[simp] theorem State.setLine_phase (s : State) (sig : Line) (b : Bool) : (s.setLine sig b).phase = s.phase := by cases sig <;> rfl
@[simp] theorem State.setLine_op (s : State) (sig : Line) (b : Bool) : (s.setLine sig b).op = s.op := by cases sig <;> rfl
@[simp] theorem State.setLine_size (s : State) (sig : Line) (b : Bool) : (s.setLine sig b).size = s.size := by cases sig <;> rfl
@[simp] theorem State.setLine_idx (s : State) (sig : Line) (b : Bool) : (s.setLine sig b).idx = s.idx := by cases sig <;> rfl
@[simp] theorem State.setLine_cnt (s : State) (sig : Line) (b : Bool) : (s.setLine sig b).cnt = s.cnt := by cases sig <;> rfl
@[simp] theorem State.setLine_faultIllegal (s : State) (sig : Line) (b : Bool) : (s.setLine sig b).faultIllegal = s.faultIllegal := by cases sig <;> rfl
@[simp] theorem State.setLine_faultOrder (s : State) (sig : Line) (b : Bool) : (s.setLine sig b).faultOrder = s.faultOrder := by cases sig <;> rfl
@[simp] theorem State.setLine_evValid (s : State) (sig : Line) (b : Bool) : (s.setLine sig b).evValid = s.evValid := by cases sig <;> rfl
@[simp] theorem State.setLine_evSig (s : State) (sig : Line) (b : Bool) : (s.setLine sig b).evSig = s.evSig := by cases sig <;> rfl
@[simp] theorem State.setLine_evVal (s : State) (sig : Line) (b : Bool) : (s.setLine sig b).evVal = s.evVal := by cases sig <;> rfl
@[simp] theorem State.setLine_cfg (s : State) (sig : Line) (b : Bool) : (s.setLine sig b).cfg = s.cfg := by cases sig <;> rfl
@[simp] theorem State.setLine_inputs (s : State) (sig : Line) (b : Bool) : (s.setLine sig b).inputs = s.inputs := by cases sig <;> rfl
/-- A written line has the bit written; every other scalar line keeps its level. -/
theorem State.line_setLine (s : State) (sig sig' : Line) (b : Bool) :
    (s.setLine sig b).line sig' = if sig' = sig then b else s.line sig' := by
  cases sig <;> cases sig' <;> rfl

-- pinWrite
@[simp] theorem State.pinWrite_d (s : State) (sig : Line) (b : Bool) : (s.pinWrite sig b).d = s.d := by cases sig <;> rfl
@[simp] theorem State.pinWrite_life (s : State) (sig : Line) (b : Bool) : (s.pinWrite sig b).life = s.life := by cases sig <;> rfl
@[simp] theorem State.pinWrite_busy (s : State) (sig : Line) (b : Bool) : (s.pinWrite sig b).busy = s.busy := by cases sig <;> rfl
@[simp] theorem State.pinWrite_phase (s : State) (sig : Line) (b : Bool) : (s.pinWrite sig b).phase = s.phase := by cases sig <;> rfl
@[simp] theorem State.pinWrite_op (s : State) (sig : Line) (b : Bool) : (s.pinWrite sig b).op = s.op := by cases sig <;> rfl
@[simp] theorem State.pinWrite_size (s : State) (sig : Line) (b : Bool) : (s.pinWrite sig b).size = s.size := by cases sig <;> rfl
@[simp] theorem State.pinWrite_idx (s : State) (sig : Line) (b : Bool) : (s.pinWrite sig b).idx = s.idx := by cases sig <;> rfl
@[simp] theorem State.pinWrite_cnt (s : State) (sig : Line) (b : Bool) : (s.pinWrite sig b).cnt = s.cnt := by cases sig <;> rfl
@[simp] theorem State.pinWrite_faultIllegal (s : State) (sig : Line) (b : Bool) : (s.pinWrite sig b).faultIllegal = s.faultIllegal := by cases sig <;> rfl
@[simp] theorem State.pinWrite_faultOrder (s : State) (sig : Line) (b : Bool) : (s.pinWrite sig b).faultOrder = s.faultOrder := by cases sig <;> rfl
@[simp] theorem State.pinWrite_evValid (s : State) (sig : Line) (b : Bool) : (s.pinWrite sig b).evValid = true := by cases sig <;> rfl
@[simp] theorem State.pinWrite_evSig (s : State) (sig : Line) (b : Bool) : (s.pinWrite sig b).evSig = sig.id := by cases sig <;> rfl
@[simp] theorem State.pinWrite_evVal (s : State) (sig : Line) (b : Bool) : (s.pinWrite sig b).evVal = zext8 b := by cases sig <;> rfl
@[simp] theorem State.pinWrite_cfg (s : State) (sig : Line) (b : Bool) : (s.pinWrite sig b).cfg = s.cfg := by cases sig <;> rfl
@[simp] theorem State.pinWrite_inputs (s : State) (sig : Line) (b : Bool) : (s.pinWrite sig b).inputs = s.inputs := by cases sig <;> rfl

-- busWrite
@[simp] theorem State.busWrite_spv (s : State) (v : Byte) : (s.busWrite v).spv = s.spv := rfl
@[simp] theorem State.busWrite_ckv (s : State) (v : Byte) : (s.busWrite v).ckv = s.ckv := rfl
@[simp] theorem State.busWrite_mode (s : State) (v : Byte) : (s.busWrite v).mode = s.mode := rfl
@[simp] theorem State.busWrite_stl (s : State) (v : Byte) : (s.busWrite v).stl = s.stl := rfl
@[simp] theorem State.busWrite_oe (s : State) (v : Byte) : (s.busWrite v).oe = s.oe := rfl
@[simp] theorem State.busWrite_le (s : State) (v : Byte) : (s.busWrite v).le = s.le := rfl
@[simp] theorem State.busWrite_cl (s : State) (v : Byte) : (s.busWrite v).cl = s.cl := rfl
@[simp] theorem State.busWrite_dcdc (s : State) (v : Byte) : (s.busWrite v).dcdc = s.dcdc := rfl
@[simp] theorem State.busWrite_d (s : State) (v : Byte) : (s.busWrite v).d = v := rfl
@[simp] theorem State.busWrite_life (s : State) (v : Byte) : (s.busWrite v).life = s.life := rfl
@[simp] theorem State.busWrite_busy (s : State) (v : Byte) : (s.busWrite v).busy = s.busy := rfl
@[simp] theorem State.busWrite_phase (s : State) (v : Byte) : (s.busWrite v).phase = s.phase := rfl
@[simp] theorem State.busWrite_op (s : State) (v : Byte) : (s.busWrite v).op = s.op := rfl
@[simp] theorem State.busWrite_size (s : State) (v : Byte) : (s.busWrite v).size = s.size := rfl
@[simp] theorem State.busWrite_idx (s : State) (v : Byte) : (s.busWrite v).idx = s.idx := rfl
@[simp] theorem State.busWrite_cnt (s : State) (v : Byte) : (s.busWrite v).cnt = s.cnt := rfl
@[simp] theorem State.busWrite_faultIllegal (s : State) (v : Byte) : (s.busWrite v).faultIllegal = s.faultIllegal := rfl
@[simp] theorem State.busWrite_faultOrder (s : State) (v : Byte) : (s.busWrite v).faultOrder = s.faultOrder := rfl
@[simp] theorem State.busWrite_evValid (s : State) (v : Byte) : (s.busWrite v).evValid = true := rfl
@[simp] theorem State.busWrite_evSig (s : State) (v : Byte) : (s.busWrite v).evSig = busId := rfl
@[simp] theorem State.busWrite_evVal (s : State) (v : Byte) : (s.busWrite v).evVal = v := rfl
@[simp] theorem State.busWrite_cfg (s : State) (v : Byte) : (s.busWrite v).cfg = s.cfg := rfl
@[simp] theorem State.busWrite_inputs (s : State) (v : Byte) : (s.busWrite v).inputs = s.inputs := rfl

-- raiseFault
@[simp] theorem raiseFault_spv (c : FaultCode) (s : State) : (raiseFault c s).spv = s.spv := by cases c <;> rfl
@[simp] theorem raiseFault_ckv (c : FaultCode) (s : State) : (raiseFault c s).ckv = s.ckv := by cases c <;> rfl
@[simp] theorem raiseFault_mode (c : FaultCode) (s : State) : (raiseFault c s).mode = s.mode := by cases c <;> rfl
@[simp] theorem raiseFault_stl (c : FaultCode) (s : State) : (raiseFault c s).stl = s.stl := by cases c <;> rfl
@[simp] theorem raiseFault_oe (c : FaultCode) (s : State) : (raiseFault c s).oe = s.oe := by cases c <;> rfl
@[simp] theorem raiseFault_le (c : FaultCode) (s : State) : (raiseFault c s).le = s.le := by cases c <;> rfl
@[simp] theorem raiseFault_cl (c : FaultCode) (s : State) : (raiseFault c s).cl = s.cl := by cases c <;> rfl
@[simp] theorem raiseFault_dcdc (c : FaultCode) (s : State) : (raiseFault c s).dcdc = s.dcdc := by cases c <;> rfl
@[simp] theorem raiseFault_d (c : FaultCode) (s : State) : (raiseFault c s).d = s.d := by cases c <;> rfl
@[simp] theorem raiseFault_life (c : FaultCode) (s : State) : (raiseFault c s).life = s.life := by cases c <;> rfl
@[simp] theorem raiseFault_busy (c : FaultCode) (s : State) : (raiseFault c s).busy = s.busy := by cases c <;> rfl
@[simp] theorem raiseFault_phase (c : FaultCode) (s : State) : (raiseFault c s).phase = s.phase := by cases c <;> rfl
@[simp] theorem raiseFault_op (c : FaultCode) (s : State) : (raiseFault c s).op = s.op := by cases c <;> rfl
@[simp] theorem raiseFault_size (c : FaultCode) (s : State) : (raiseFault c s).size = s.size := by cases c <;> rfl
@[simp] theorem raiseFault_idx (c : FaultCode) (s : State) : (raiseFault c s).idx = s.idx := by cases c <;> rfl
@[simp] theorem raiseFault_cnt (c : FaultCode) (s : State) : (raiseFault c s).cnt = s.cnt := by cases c <;> rfl
@[simp] theorem raiseFault_faultIllegal (c : FaultCode) (s : State) : (raiseFault c s).faultIllegal = (s.faultIllegal || decide (c = .illegalCmd)) := by cases c <;> simp [raiseFault]
@[simp] theorem raiseFault_faultOrder (c : FaultCode) (s : State) : (raiseFault c s).faultOrder = (s.faultOrder || decide (c = .order)) := by cases c <;> simp [raiseFault]
@[simp] theorem raiseFault_evValid (c : FaultCode) (s : State) : (raiseFault c s).evValid = s.evValid := by cases c <;> rfl
@[simp] theorem raiseFault_evSig (c : FaultCode) (s : State) : (raiseFault c s).evSig = s.evSig := by cases c <;> rfl
@[simp] theorem raiseFault_evVal (c : FaultCode) (s : State) : (raiseFault c s).evVal = s.evVal := by cases c <;> rfl
@[simp] theorem raiseFault_cfg (c : FaultCode) (s : State) : (raiseFault c s).cfg = s.cfg := by cases c <;> rfl
@[simp] theorem raiseFault_inputs (c : FaultCode) (s : State) : (raiseFault c s).inputs = s.inputs := by cases c <;> rfl

-- checkOrder
@[simp] theorem checkOrder_spv (op : Opcode) (s : State) : (checkOrder op s).spv = s.spv := by
  unfold checkOrder; split <;> simp
@[simp] theorem checkOrder_ckv (op : Opcode) (s : State) : (checkOrder op s).ckv = s.ckv := by
  unfold checkOrder; split <;> simp
@[simp] theorem checkOrder_mode (op : Opcode) (s : State) : (checkOrder op s).mode = s.mode := by
  unfold checkOrder; split <;> simp
@[simp] theorem checkOrder_stl (op : Opcode) (s : State) : (checkOrder op s).stl = s.stl := by
  unfold checkOrder; split <;> simp
@[simp] theorem checkOrder_oe (op : Opcode) (s : State) : (checkOrder op s).oe = s.oe := by
  unfold checkOrder; split <;> simp
@[simp] theorem checkOrder_le (op : Opcode) (s : State) : (checkOrder op s).le = s.le := by
  unfold checkOrder; split <;> simp
@[simp] theorem checkOrder_cl (op : Opcode) (s : State) : (checkOrder op s).cl = s.cl := by
  unfold checkOrder; split <;> simp
@[simp] theorem checkOrder_dcdc (op : Opcode) (s : State) : (checkOrder op s).dcdc = s.dcdc := by
  unfold checkOrder; split <;> simp
@[simp] theorem checkOrder_d (op : Opcode) (s : State) : (checkOrder op s).d = s.d := by
  unfold checkOrder; split <;> simp
@[simp] theorem checkOrder_life (op : Opcode) (s : State) : (checkOrder op s).life = s.life := by
  unfold checkOrder; split <;> simp
@[simp] theorem checkOrder_busy (op : Opcode) (s : State) : (checkOrder op s).busy = s.busy := by
  unfold checkOrder; split <;> simp
@[simp] theorem checkOrder_phase (op : Opcode) (s : State) : (checkOrder op s).phase = s.phase := by
  unfold checkOrder; split <;> simp
@[simp] theorem checkOrder_op (op : Opcode) (s : State) : (checkOrder op s).op = s.op := by
  unfold checkOrder; split <;> simp
@[simp] theorem checkOrder_size (op : Opcode) (s : State) : (checkOrder op s).size = s.size := by
  unfold checkOrder; split <;> simp
@[simp] theorem checkOrder_idx (op : Opcode) (s : State) : (checkOrder op s).idx = s.idx := by
  unfold checkOrder; split <;> simp
@[simp] theorem checkOrder_cnt (op : Opcode) (s : State) : (checkOrder op s).cnt = s.cnt := by
  unfold checkOrder; split <;> simp
@[simp] theorem checkOrder_faultIllegal (op : Opcode) (s : State) : (checkOrder op s).faultIllegal = s.faultIllegal := by
  unfold checkOrder; split <;> simp
@[simp] theorem checkOrder_faultOrder (op : Opcode) (s : State) :
    (checkOrder op s).faultOrder = (s.faultOrder || !allowed s.life op) := by
  unfold checkOrder; cases allowed s.life op <;> simp
@[simp] theorem checkOrder_evValid (op : Opcode) (s : State) : (checkOrder op s).evValid = s.evValid := by
  unfold checkOrder; split <;> simp
@[simp] theorem checkOrder_evSig (op : Opcode) (s : State) : (checkOrder op s).evSig = s.evSig := by
  unfold checkOrder; split <;> simp
@[simp] theorem checkOrder_evVal (op : Opcode) (s : State) : (checkOrder op s).evVal = s.evVal := by
  unfold checkOrder; split <;> simp
@[simp] theorem checkOrder_cfg (op : Opcode) (s : State) : (checkOrder op s).cfg = s.cfg := by
  unfold checkOrder; split <;> simp
@[simp] theorem checkOrder_inputs (op : Opcode) (s : State) : (checkOrder op s).inputs = s.inputs := by
  unfold checkOrder; split <;> simp

-- complete
@[simp] theorem complete_spv (op : Opcode) (s : State) : (complete op s).spv = s.spv := rfl
@[simp] theorem complete_ckv (op : Opcode) (s : State) : (complete op s).ckv = s.ckv := rfl
@[simp] theorem complete_mode (op : Opcode) (s : State) : (complete op s).mode = s.mode := rfl
@[simp] theorem complete_stl (op : Opcode) (s : State) : (complete op s).stl = s.stl := rfl
@[simp] theorem complete_oe (op : Opcode) (s : State) : (complete op s).oe = s.oe := rfl
@[simp] theorem complete_le (op : Opcode) (s : State) : (complete op s).le = s.le := rfl
@[simp] theorem complete_cl (op : Opcode) (s : State) : (complete op s).cl = s.cl := rfl
@[simp] theorem complete_dcdc (op : Opcode) (s : State) : (complete op s).dcdc = s.dcdc := rfl
@[simp] theorem complete_d (op : Opcode) (s : State) : (complete op s).d = s.d := rfl
@[simp] theorem complete_life (op : Opcode) (s : State) : (complete op s).life = nextLife s.life op := rfl
@[simp] theorem complete_busy (op : Opcode) (s : State) : (complete op s).busy = false := rfl
@[simp] theorem complete_phase (op : Opcode) (s : State) : (complete op s).phase = .idle := rfl
@[simp] theorem complete_op (op : Opcode) (s : State) : (complete op s).op = s.op := rfl
@[simp] theorem complete_size (op : Opcode) (s : State) : (complete op s).size = s.size := rfl
@[simp] theorem complete_idx (op : Opcode) (s : State) : (complete op s).idx = s.idx := rfl
@[simp] theorem complete_cnt (op : Opcode) (s : State) : (complete op s).cnt = 0 := rfl
@[simp] theorem complete_faultIllegal (op : Opcode) (s : State) : (complete op s).faultIllegal = s.faultIllegal := rfl
@[simp] theorem complete_faultOrder (op : Opcode) (s : State) : (complete op s).faultOrder = s.faultOrder := rfl
@[simp] theorem complete_evValid (op : Opcode) (s : State) : (complete op s).evValid = s.evValid := rfl
@[simp] theorem complete_evSig (op : Opcode) (s : State) : (complete op s).evSig = s.evSig := rfl
@[simp] theorem complete_evVal (op : Opcode) (s : State) : (complete op s).evVal = s.evVal := rfl
@[simp] theorem complete_cfg (op : Opcode) (s : State) : (complete op s).cfg = s.cfg := rfl
@[simp] theorem complete_inputs (op : Opcode) (s : State) : (complete op s).inputs = s.inputs := rfl

-- hold
@[simp] theorem hold_spv (s : State) : (hold s).spv = s.spv := rfl
@[simp] theorem hold_ckv (s : State) : (hold s).ckv = s.ckv := rfl
@[simp] theorem hold_mode (s : State) : (hold s).mode = s.mode := rfl
@[simp] theorem hold_stl (s : State) : (hold s).stl = s.stl := rfl
@[simp] theorem hold_oe (s : State) : (hold s).oe = s.oe := rfl
@[simp] theorem hold_le (s : State) : (hold s).le = s.le := rfl
@[simp] theorem hold_cl (s : State) : (hold s).cl = s.cl := rfl
@[simp] theorem hold_dcdc (s : State) : (hold s).dcdc = s.dcdc := rfl
@[simp] theorem hold_d (s : State) : (hold s).d = s.d := rfl
@[simp] theorem hold_life (s : State) : (hold s).life = s.life := rfl
@[simp] theorem hold_busy (s : State) : (hold s).busy = s.busy := rfl
@[simp] theorem hold_phase (s : State) : (hold s).phase = s.phase := rfl
@[simp] theorem hold_op (s : State) : (hold s).op = s.op := rfl
@[simp] theorem hold_size (s : State) : (hold s).size = s.size := rfl
@[simp] theorem hold_idx (s : State) : (hold s).idx = s.idx := rfl
@[simp] theorem hold_cnt (s : State) : (hold s).cnt = s.cfg.sat (s.cnt + 1) := rfl
@[simp] theorem hold_faultIllegal (s : State) : (hold s).faultIllegal = s.faultIllegal := rfl
@[simp] theorem hold_faultOrder (s : State) : (hold s).faultOrder = s.faultOrder := rfl
@[simp] theorem hold_evValid (s : State) : (hold s).evValid = false := rfl
@[simp] theorem hold_evSig (s : State) : (hold s).evSig = s.evSig := rfl
@[simp] theorem hold_evVal (s : State) : (hold s).evVal = s.evVal := rfl
@[simp] theorem hold_cfg (s : State) : (hold s).cfg = s.cfg := rfl
@[simp] theorem hold_inputs (s : State) : (hold s).inputs = s.inputs := rfl

-- accept
@[simp] theorem accept_spv (op : Opcode) (n : BitVec 16) (p : Phase) (s : State) : (accept op n p s).spv = s.spv := by simp [accept]
@[simp] theorem accept_ckv (op : Opcode) (n : BitVec 16) (p : Phase) (s : State) : (accept op n p s).ckv = s.ckv := by simp [accept]
@[simp] theorem accept_mode (op : Opcode) (n : BitVec 16) (p : Phase) (s : State) : (accept op n p s).mode = s.mode := by simp [accept]
@[simp] theorem accept_stl (op : Opcode) (n : BitVec 16) (p : Phase) (s : State) : (accept op n p s).stl = s.stl := by simp [accept]
@[simp] theorem accept_oe (op : Opcode) (n : BitVec 16) (p : Phase) (s : State) : (accept op n p s).oe = s.oe := by simp [accept]
@[simp] theorem accept_le (op : Opcode) (n : BitVec 16) (p : Phase) (s : State) : (accept op n p s).le = s.le := by simp [accept]
@[simp] theorem accept_cl (op : Opcode) (n : BitVec 16) (p : Phase) (s : State) : (accept op n p s).cl = s.cl := by simp [accept]
@[simp] theorem accept_dcdc (op : Opcode) (n : BitVec 16) (p : Phase) (s : State) : (accept op n p s).dcdc = s.dcdc := by simp [accept]
@[simp] theorem accept_d (op : Opcode) (n : BitVec 16) (p : Phase) (s : State) : (accept op n p s).d = s.d := by simp [accept]
@[simp] theorem accept_life (op : Opcode) (n : BitVec 16) (p : Phase) (s : State) : (accept op n p s).life = s.life := by simp [accept]
@[simp] theorem accept_busy (op : Opcode) (n : BitVec 16) (p : Phase) (s : State) : (accept op n p s).busy = true := by simp [accept]
@[simp] theorem accept_phase (op : Opcode) (n : BitVec 16) (p : Phase) (s : State) : (accept op n p s).phase = p := by simp [accept]
@[simp] theorem accept_op (op : Opcode) (n : BitVec 16) (p : Phase) (s : State) : (accept op n p s).op = op.bits := by simp [accept]
@[simp] theorem accept_size (op : Opcode) (n : BitVec 16) (p : Phase) (s : State) : (accept op n p s).size = n := by simp [accept]
@[simp] theorem accept_idx (op : Opcode) (n : BitVec 16) (p : Phase) (s : State) : (accept op n p s).idx = 0 := by simp [accept]
@[simp] theorem accept_cnt (op : Opcode) (n : BitVec 16) (p : Phase) (s : State) : (accept op n p s).cnt = 0 := by simp [accept]
@[simp] theorem accept_faultIllegal (op : Opcode) (n : BitVec 16) (p : Phase) (s : State) : (accept op n p s).faultIllegal = s.faultIllegal := by simp [accept]
@[simp] theorem accept_faultOrder (op : Opcode) (n : BitVec 16) (p : Phase) (s : State) : (accept op n p s).faultOrder = (s.faultOrder || !allowed s.life op) := by simp [accept]
@[simp] theorem accept_evValid (op : Opcode) (n : BitVec 16) (p : Phase) (s : State) : (accept op n p s).evValid = false := by simp [accept]
@[simp] theorem accept_evSig (op : Opcode) (n : BitVec 16) (p : Phase) (s : State) : (accept op n p s).evSig = s.evSig := by simp [accept]
@[simp] theorem accept_evVal (op : Opcode) (n : BitVec 16) (p : Phase) (s : State) : (accept op n p s).evVal = s.evVal := by simp [accept]
@[simp] theorem accept_cfg (op : Opcode) (n : BitVec 16) (p : Phase) (s : State) : (accept op n p s).cfg = s.cfg := by simp [accept]
@[simp] theorem accept_inputs (op : Opcode) (n : BitVec 16) (p : Phase) (s : State) : (accept op n p s).inputs = s.inputs := by simp [accept]

-- illegalEdge
@[simp] theorem illegalEdge_spv (s : State) : (illegalEdge s).spv = s.spv := rfl
@[simp] theorem illegalEdge_ckv (s : State) : (illegalEdge s).ckv = s.ckv := rfl
@[simp] theorem illegalEdge_mode (s : State) : (illegalEdge s).mode = s.mode := rfl
@[simp] theorem illegalEdge_stl (s : State) : (illegalEdge s).stl = s.stl := rfl
@[simp] theorem illegalEdge_oe (s : State) : (illegalEdge s).oe = s.oe := rfl
@[simp] theorem illegalEdge_le (s : State) : (illegalEdge s).le = s.le := rfl
@[simp] theorem illegalEdge_cl (s : State) : (illegalEdge s).cl = s.cl := rfl
@[simp] theorem illegalEdge_dcdc (s : State) : (illegalEdge s).dcdc = s.dcdc := rfl
@[simp] theorem illegalEdge_d (s : State) : (illegalEdge s).d = s.d := rfl
@[simp] theorem illegalEdge_life (s : State) : (illegalEdge s).life = s.life := rfl
@[simp] theorem illegalEdge_busy (s : State) : (illegalEdge s).busy = s.busy := rfl
@[simp] theorem illegalEdge_phase (s : State) : (illegalEdge s).phase = s.phase := rfl
@[simp] theorem illegalEdge_op (s : State) : (illegalEdge s).op = s.op := rfl
@[simp] theorem illegalEdge_size (s : State) : (illegalEdge s).size = s.size := rfl
@[simp] theorem illegalEdge_idx (s : State) : (illegalEdge s).idx = s.idx := rfl
@[simp] theorem illegalEdge_cnt (s : State) : (illegalEdge s).cnt = s.cnt := rfl
@[simp] theorem illegalEdge_faultIllegal (s : State) : (illegalEdge s).faultIllegal = true := rfl
@[simp] theorem illegalEdge_faultOrder (s : State) : (illegalEdge s).faultOrder = s.faultOrder := rfl
@[simp] theorem illegalEdge_evValid (s : State) : (illegalEdge s).evValid = false := rfl
@[simp] theorem illegalEdge_evSig (s : State) : (illegalEdge s).evSig = s.evSig := rfl
@[simp] theorem illegalEdge_evVal (s : State) : (illegalEdge s).evVal = s.evVal := rfl
@[simp] theorem illegalEdge_cfg (s : State) : (illegalEdge s).cfg = s.cfg := rfl
@[simp] theorem illegalEdge_inputs (s : State) : (illegalEdge s).inputs = s.inputs := rfl

-- perform: an event writes lines and the trace port, nothing else
@[simp] theorem perform_life (a : Action) (s : State) : (perform a s).life = s.life := by cases a <;> simp [perform]
@[simp] theorem perform_busy (a : Action) (s : State) : (perform a s).busy = s.busy := by cases a <;> simp [perform]
@[simp] theorem perform_phase (a : Action) (s : State) : (perform a s).phase = s.phase := by cases a <;> simp [perform]
@[simp] theorem perform_op (a : Action) (s : State) : (perform a s).op = s.op := by cases a <;> simp [perform]
@[simp] theorem perform_size (a : Action) (s : State) : (perform a s).size = s.size := by cases a <;> simp [perform]
@[simp] theorem perform_idx (a : Action) (s : State) : (perform a s).idx = s.idx := by cases a <;> simp [perform]
@[simp] theorem perform_cnt (a : Action) (s : State) : (perform a s).cnt = s.cnt := by cases a <;> simp [perform]
@[simp] theorem perform_faultIllegal (a : Action) (s : State) : (perform a s).faultIllegal = s.faultIllegal := by cases a <;> simp [perform]
@[simp] theorem perform_faultOrder (a : Action) (s : State) : (perform a s).faultOrder = s.faultOrder := by cases a <;> simp [perform]
@[simp] theorem perform_cfg (a : Action) (s : State) : (perform a s).cfg = s.cfg := by cases a <;> simp [perform]
@[simp] theorem perform_inputs (a : Action) (s : State) : (perform a s).inputs = s.inputs := by cases a <;> simp [perform]

-- fire: the event, then the bookkeeping of R112 and R117
@[simp] theorem fire_life (op : Opcode) (r : PhaseRow) (s : State) : (fire op r s).life = if r.next = none then nextLife s.life op else s.life := by
  unfold fire; cases r.next <;> simp
@[simp] theorem fire_busy (op : Opcode) (r : PhaseRow) (s : State) : (fire op r s).busy = (r.next.isSome && s.busy) := by
  unfold fire; cases r.next <;> simp
@[simp] theorem fire_phase (op : Opcode) (r : PhaseRow) (s : State) : (fire op r s).phase = r.next.getD .idle := by
  unfold fire; cases r.next <;> simp
@[simp] theorem fire_op (op : Opcode) (r : PhaseRow) (s : State) : (fire op r s).op = s.op := by
  unfold fire; cases r.next <;> simp
@[simp] theorem fire_size (op : Opcode) (r : PhaseRow) (s : State) : (fire op r s).size = s.size := by
  unfold fire; cases r.next <;> simp
@[simp] theorem fire_idx (op : Opcode) (r : PhaseRow) (s : State) : (fire op r s).idx = if s.phase = .wrClLo then s.idx + 1 else s.idx := by
  unfold fire; cases r.next <;> simp
@[simp] theorem fire_cnt (op : Opcode) (r : PhaseRow) (s : State) : (fire op r s).cnt = 0 := by
  unfold fire; cases r.next <;> simp
@[simp] theorem fire_faultIllegal (op : Opcode) (r : PhaseRow) (s : State) : (fire op r s).faultIllegal = s.faultIllegal := by
  unfold fire; cases r.next <;> simp
@[simp] theorem fire_faultOrder (op : Opcode) (r : PhaseRow) (s : State) : (fire op r s).faultOrder = s.faultOrder := by
  unfold fire; cases r.next <;> simp
@[simp] theorem fire_cfg (op : Opcode) (r : PhaseRow) (s : State) : (fire op r s).cfg = s.cfg := by
  unfold fire; cases r.next <;> simp
@[simp] theorem fire_inputs (op : Opcode) (r : PhaseRow) (s : State) : (fire op r s).inputs = s.inputs := by
  unfold fire; cases r.next <;> simp
theorem fire_spv (op : Opcode) (r : PhaseRow) (s : State) : (fire op r s).spv = (perform r.action s).spv := by
  unfold fire; cases r.next <;> simp
theorem fire_ckv (op : Opcode) (r : PhaseRow) (s : State) : (fire op r s).ckv = (perform r.action s).ckv := by
  unfold fire; cases r.next <;> simp
theorem fire_mode (op : Opcode) (r : PhaseRow) (s : State) : (fire op r s).mode = (perform r.action s).mode := by
  unfold fire; cases r.next <;> simp
theorem fire_stl (op : Opcode) (r : PhaseRow) (s : State) : (fire op r s).stl = (perform r.action s).stl := by
  unfold fire; cases r.next <;> simp
theorem fire_oe (op : Opcode) (r : PhaseRow) (s : State) : (fire op r s).oe = (perform r.action s).oe := by
  unfold fire; cases r.next <;> simp
theorem fire_le (op : Opcode) (r : PhaseRow) (s : State) : (fire op r s).le = (perform r.action s).le := by
  unfold fire; cases r.next <;> simp
theorem fire_cl (op : Opcode) (r : PhaseRow) (s : State) : (fire op r s).cl = (perform r.action s).cl := by
  unfold fire; cases r.next <;> simp
theorem fire_dcdc (op : Opcode) (r : PhaseRow) (s : State) : (fire op r s).dcdc = (perform r.action s).dcdc := by
  unfold fire; cases r.next <;> simp
theorem fire_d (op : Opcode) (r : PhaseRow) (s : State) : (fire op r s).d = (perform r.action s).d := by
  unfold fire; cases r.next <;> simp
theorem fire_evValid (op : Opcode) (r : PhaseRow) (s : State) : (fire op r s).evValid = (perform r.action s).evValid := by
  unfold fire; cases r.next <;> simp
theorem fire_evSig (op : Opcode) (r : PhaseRow) (s : State) : (fire op r s).evSig = (perform r.action s).evSig := by
  unfold fire; cases r.next <;> simp
theorem fire_evVal (op : Opcode) (r : PhaseRow) (s : State) : (fire op r s).evVal = (perform r.action s).evVal := by
  unfold fire; cases r.next <;> simp

/-- The lines after a firing phase are those after its event. -/
theorem fire_lines (op : Opcode) (r : PhaseRow) (s : State) : (fire op r s).lines = (perform r.action s).lines := by
  unfold fire; cases r.next <;> simp [State.lines]

@[simp] theorem State.nextEdge_inputAt (s : State) (j : Nat) : s.nextEdge.inputAt j = s.inputAt (j + 1) := by
  simp [State.inputAt]

end Sys2Proof.Machine
end

