-- ==== Sys2Proof/Laws/Ops.lean ====
section
/-! SUPPORT. What each shared operation can do, said once: acceptance and the edge of a command in execution, the row of the phase table that a
meaning stands at, and the cases of a step. Later proofs cite these instead of unfolding the step. -/

namespace Sys2Proof.Machine

/-- The row of the phase table at which command i stands: what its meaning passes to `sequencerEdge`. -/
def rowOf (i : Instr) (s : State) : Option PhaseRow :=
  match i with
  | .enable => enableRow s
  | .disable => disableRow s
  | .startFrame => startFrameRow s
  | .endFrame => endFrameRow s
  | .writeRow _ => writeRowRow s

/-- Every meaning is one edge of its command, from its FIRST phase and its rows. -/
theorem exec_eq_commandEdge (i : Instr) (s : State) :
    exec i s = commandEdge i.opcode i.size (firstPhase i.opcode) (rowOf i s) s := by
  cases i <;> rfl

/-- A quiescent block accepts. -/
theorem exec_of_quiescent (i : Instr) (s : State) (h : s.busy = false) :
    exec i s = .next (accept i.opcode i.size (firstPhase i.opcode) s) := by
  simp [exec_eq_commandEdge, commandEdge, h]

/-- A busy block stands at a row of the command, and its phase fires or holds. -/
theorem exec_of_busy (i : Instr) (s : State) (h : s.busy = true) :
    exec i s = sequencerEdge i.opcode (rowOf i s) s := by
  simp [exec_eq_commandEdge, commandEdge, h]

/-- What an edge of a command in execution can do. -/
theorem sequencerEdge_next {op : Opcode} {row : Option PhaseRow} {s t : State} (h : sequencerEdge op row s = .next t) :
    ∃ r, row = some r ∧ (s.fires r = true ∧ t = fire op r s ∨ s.fires r = false ∧ t = hold s) := by
  cases row with
  | none => simp [sequencerEdge] at h
  | some r =>
    refine ⟨r, rfl, ?_⟩
    cases hf : s.fires r <;> simp [sequencerEdge, hf] at h <;> simp [h]

/-- What a meaning can do: accept, fire its phase, or hold. -/
theorem exec_next {i : Instr} {s t : State} (h : exec i s = .next t) :
    (s.busy = false ∧ t = accept i.opcode i.size (firstPhase i.opcode) s) ∨
    (s.busy = true ∧ ∃ r, rowOf i s = some r ∧
      (s.fires r = true ∧ t = fire i.opcode r s ∨ s.fires r = false ∧ t = hold s)) := by
  cases hb : s.busy with
  | false => simp [exec_of_quiescent i s hb] at h; exact .inl ⟨rfl, h.symm⟩
  | true => rw [exec_of_busy i s hb] at h; exact .inr ⟨rfl, sequencerEdge_next h⟩

/-- The effect of an edge on the inputs is to take one. -/
theorem advance_next {o : Outcome} {t : State} : advance o = .next t ↔ ∃ u, o = .next u ∧ t = u.nextEdge := by
  cases o <;> simp [advance, eq_comm]

/-- The command in execution has the captured opcode. -/
theorem running_eq_some {s : State} {i : Instr} (h : s.running = some i) : Opcode.ofBits s.op = some i.opcode := by
  unfold State.running at h
  split at h <;> simp_all <;> subst h <;> rfl

/-- An opcode that is assigned is in execution as one command. -/
theorem running_of_ofBits {s : State} {o : Opcode} (h : Opcode.ofBits s.op = some o) : ∃ i, s.running = some i ∧ i.opcode = o := by
  unfold State.running
  rw [h]
  cases o <;> exact ⟨_, rfl, rfl⟩

/-- What a step can do: a reset edge, a quiet edge, an illegal word consumed, or one edge of a command, offered or in execution. -/
theorem step_next {s t : State} (h : step s = .next t) :
    s.cfg.ok = true ∧
    ((s.input.rst = true ∧ t = State.resetOf s.cfg s.inputs.tail) ∨
     (s.input.rst = false ∧ s.busy = false ∧ s.input.cmdValid = false ∧ t = s.noEvent.nextEdge) ∨
     (s.input.rst = false ∧ s.busy = false ∧ s.input.cmdValid = true ∧
       ∃ why, decode s.input.cmd = .illegal why ∧ t = (illegalEdge s).nextEdge) ∨
     (s.input.rst = false ∧ s.busy = false ∧ s.input.cmdValid = true ∧
       ∃ i, decode s.input.cmd = .cmd i ∧ t = (accept i.opcode i.size (firstPhase i.opcode) s).nextEdge) ∨
     (s.input.rst = false ∧ s.busy = true ∧ ∃ i r, s.running = some i ∧ rowOf i s = some r ∧
       (s.fires r = true ∧ t = (fire i.opcode r s).nextEdge ∨ s.fires r = false ∧ t = (hold s).nextEdge))) := by
  unfold step clockEdge at h
  cases hok : s.cfg.ok with
  | false => simp [hok] at h
  | true =>
    refine ⟨rfl, ?_⟩
    rw [hok, if_pos rfl] at h
    obtain ⟨u, hu, rfl⟩ := advance_next.mp h
    unfold edgeEffect at hu
    cases hr : s.input.rst with
    | true => simp [hr, resetEdge] at hu; subst hu; exact .inl ⟨rfl, rfl⟩
    | false =>
      right
      cases hb : s.busy with
      | true =>
        simp [hr, hb, continueCommand] at hu
        right; right; right
        refine ⟨rfl, rfl, ?_⟩
        cases hrun : s.running with
        | none => simp [hrun] at hu
        | some i =>
          simp [hrun, exec_of_busy i s hb] at hu
          obtain ⟨r, hrow, hc⟩ := sequencerEdge_next hu
          refine ⟨i, r, rfl, hrow, ?_⟩
          obtain ⟨hf, rfl⟩ | ⟨hf, rfl⟩ := hc
          · exact .inl ⟨hf, rfl⟩
          · exact .inr ⟨hf, rfl⟩
      | false =>
        cases hv : s.input.cmdValid with
        | false => simp [hr, hb, hv, idleEdge] at hu; subst hu; exact .inl ⟨rfl, rfl, rfl, rfl⟩
        | true =>
          right
          simp [hr, hb, hv, offered] at hu
          cases hd : decode s.input.cmd with
          | illegal why => simp [hd] at hu; subst hu; exact .inl ⟨rfl, rfl, rfl, why, rfl, rfl⟩
          | cmd i =>
            simp [hd, exec_of_quiescent i s hb] at hu
            subst hu
            exact .inr (.inl ⟨rfl, rfl, rfl, i, rfl, rfl⟩)

/-- A step of a busy block, forwards: where the command in execution stands at a row, the phase fires or holds. -/
theorem step_of_busy {s : State} {i : Instr} {r : PhaseRow} (hok : s.cfg.ok = true) (hr : s.input.rst = false) (hb : s.busy = true)
    (hi : s.running = some i) (hrow : rowOf i s = some r) :
    step s = .next (if s.fires r then fire i.opcode r s else hold s).nextEdge := by
  simp [step, clockEdge, hok, edgeEffect, hr, hb, continueCommand, hi, exec_of_busy i s hb, hrow, sequencerEdge, advance]

/-- A step of a quiescent block that is offered a command. -/
theorem step_of_offered {s : State} {i : Instr} (hok : s.cfg.ok = true) (hr : s.input.rst = false) (hb : s.busy = false)
    (hv : s.input.cmdValid = true) (hd : decode s.input.cmd = .cmd i) :
    step s = .next (accept i.opcode i.size (firstPhase i.opcode) s).nextEdge := by
  simp [step, clockEdge, hok, edgeEffect, hr, hb, hv, offered, hd, exec_of_quiescent i s hb, advance]

/-- No step writes the build parameters. -/
theorem step_cfg {s t : State} (h : step s = .next t) : t.cfg = s.cfg := by
  obtain ⟨-, ⟨-, rfl⟩ | ⟨-, -, -, rfl⟩ | ⟨-, -, -, _, -, rfl⟩ | ⟨-, -, -, _, -, rfl⟩ | ⟨-, -, i, r, -, -, ⟨-, rfl⟩ | ⟨-, rfl⟩⟩⟩ := step_next h
  · rfl
  · rfl
  · rfl
  · simp
  · obtain ⟨a, q, nx⟩ := r
    cases a <;> cases nx <;> simp [fire, perform]
  · rfl

/-- Every step takes one edge's inputs. -/
theorem step_inputs {s t : State} (h : step s = .next t) : t.inputs = s.inputs.tail := by
  obtain ⟨-, ⟨-, rfl⟩ | ⟨-, -, -, rfl⟩ | ⟨-, -, -, _, -, rfl⟩ | ⟨-, -, -, _, -, rfl⟩ | ⟨-, -, i, r, -, -, ⟨-, rfl⟩ | ⟨-, rfl⟩⟩⟩ := step_next h
  · rfl
  · rfl
  · rfl
  · simp
  · obtain ⟨a, q, nx⟩ := r
    cases a <;> cases nx <;> simp [fire, perform]
  · rfl

end Sys2Proof.Machine
end

