-- ==== Sys2Proof/Laws/Consistent.lean ====
section
/-! SUPPORT. Lemmas about `Consistent`: that it does not read the inputs or the trace port, that a busy consistent block stands at a row, and a
decidable form of it, with which a test shows that a concrete state is consistent. -/

namespace Sys2Proof.Machine

/-- A command stands at a row exactly at its own phases. -/
theorem rowOf_isSome (i : Instr) (s : State) : (rowOf i s).isSome = true ↔ s.phase ∈ phasesOf i.opcode := by
  cases i <;> cases hp : s.phase <;>
    simp [rowOf, enableRow, disableRow, startFrameRow, endFrameRow, writeRowRow, hp, Instr.opcode, phasesOf]

/-- A busy consistent block runs a command that stands at a row. -/
theorem Consistent.stands_at_row {s : State} (h : Consistent s) (hb : s.busy = true) :
    ∃ i r, s.running = some i ∧ rowOf i s = some r := by
  obtain ⟨o, ho, hp⟩ := h.sequencer.phase_of_op hb
  obtain ⟨i, hi, rfl⟩ := running_of_ofBits ho
  obtain ⟨r, hr⟩ := Option.isSome_iff_exists.mp ((rowOf_isSome i s).mpr hp)
  exact ⟨i, r, hi, hr⟩

theorem Consistent.nextEdge {s : State} (h : Consistent s) : Consistent s.nextEdge := by
  obtain ⟨⟨⟩, ⟨⟩, ⟨⟩⟩ := h
  refine ⟨?_, ?_, ?_⟩ <;> constructor <;> assumption

theorem Consistent.noEvent {s : State} (h : Consistent s) : Consistent s.noEvent := by
  obtain ⟨⟨⟩, ⟨⟩, ⟨⟩⟩ := h
  refine ⟨?_, ?_, ?_⟩ <;> constructor <;> assumption

/-- `SequencerInv` in a form that `decide` can run on. -/
abbrev SequencerCheck (s : State) : Prop :=
  s.cnt ≤ counterMax s.cfg.cntW ∧ (s.phase = .idle ↔ s.busy = false) ∧
  (s.busy = true → (Opcode.ofBits s.op).any (fun o => decide (s.phase ∈ phasesOf o)) = true) ∧
  (s.op ≠ Opcode.writeRow.bits → s.size = 0) ∧ s.idx.toNat ≤ s.size.toNat ∧ (s.phase = .wrStlLo → s.idx = 0) ∧
  (s.phase ∈ [.wrData, .wrClHi, .wrClLo] → s.idx.toNat < s.size.toNat) ∧
  (s.phase ∈ [.wrStlHi, .wrXclHi, .wrXclLo, .wrLeHi, .wrLeLo, .wrCkvLo, .wrCkvHi] → s.idx = s.size)

/-- `PulseInv`, likewise. -/
abbrev PulseCheck (s : State) : Prop :=
  (s.spv = false ↔ s.phase ∈ [.sfCkvLo, .sfCkvHi, .sfSpvHi]) ∧ (s.ckv = false ↔ s.phase ∈ [.sfCkvHi, .wrCkvHi]) ∧
  (s.stl = false ↔ s.phase ∈ [.wrData, .wrClHi, .wrClLo, .wrStlHi]) ∧
  (s.cfg.padCl = false → (s.cl = true ↔ s.phase ∈ [.wrClLo, .wrXclLo])) ∧
  (s.cfg.padLe = false → (s.le = true ↔ s.phase = .wrLeLo))

/-- `LifecycleInv`, likewise. -/
abbrev LifecycleCheck (s : State) : Prop :=
  (s.phase = .enSettle → s.dcdc = false) ∧ (s.phase ≠ .enSettle → (s.life = .disabled ↔ s.dcdc = true)) ∧
  (s.phase ∈ [.sfModeHi, .sfSpvLo, .sfCkvLo, .sfCkvHi, .sfSpvHi] → s.oe = true) ∧
  (s.phase ∈ [.sfSpvLo, .sfCkvLo, .sfCkvHi, .sfSpvHi] → s.mode = true) ∧
  (s.life = .frameOpen → s.oe = true) ∧ (s.life = .frameOpen → s.phase ≠ .efOeLo → s.mode = true) ∧
  (s.phase = .efOeLo → s.mode = false) ∧
  (s.busy = true → s.faultOrder = false → (Opcode.ofBits s.op).any (fun o => allowed s.life o) = true) ∧
  (s.faultOrder = false → s.cfg.SpecPads → s.life ≠ .frameOpen →
    s.phase ∉ [.sfModeHi, .sfSpvLo, .sfCkvLo, .sfCkvHi, .sfSpvHi] → s.oe = false ∧ s.mode = false)

/-- The three together. -/
def consistentCheck (s : State) : Bool := decide (SequencerCheck s) && decide (PulseCheck s) && decide (LifecycleCheck s)

theorem consistent_of_check {s : State} (h : consistentCheck s = true) : Consistent s := by
  simp only [consistentCheck, Bool.and_eq_true] at h
  obtain ⟨⟨a1, a2, a3, a4, a5, a6, a7, a8⟩, b1, b2, b3, b4, b5⟩ := And.intro (of_decide_eq_true h.1.1) (of_decide_eq_true h.1.2)
  obtain ⟨c1, c2, c3, c4, c5, c6, c7, c8, c9⟩ := of_decide_eq_true h.2
  refine ⟨⟨a1, a2, fun hb => ?_, a4, a5, a6, a7, a8⟩, ⟨b1, b2, b3, b4, b5⟩, ⟨c1, c2, c3, c4, c5, c6, c7, fun hb hf => ?_, c9⟩⟩
  · obtain ⟨o, ho, hp⟩ := (Option.any_eq_true _ _).mp (a3 hb)
    exact ⟨o, ho, of_decide_eq_true hp⟩
  · obtain ⟨o, ho, hp⟩ := (Option.any_eq_true _ _).mp (c8 hb hf)
    exact ⟨o, ho, hp⟩

end Sys2Proof.Machine
end

