-- ==== Sys2Proof/Laws/Decode.lean ====
section
/-! SUPPORT. The fields of an encoded command, and reading back an opcode. -/

namespace Sys2Proof

@[simp] theorem Opcode.ofBits_bits (o : Opcode) : Opcode.ofBits o.bits = some o := by cases o <;> rfl

/-- An opcode field that is assigned is that opcode's number. -/
theorem Opcode.bits_of_ofBits {b : BitVec 4} {o : Opcode} (h : Opcode.ofBits b = some o) : b = o.bits := by
  revert h; cases o <;> revert b <;> decide

/-- A word is its three fields. -/
theorem Word.eq_of_fields {w v : Word} (ho : w.opField = v.opField) (hr : w.rsvField = v.rsvField) (hs : w.sizeField = v.sizeField) :
    w = v := by
  have fields : ∀ x : Word, x = x.sizeField ++ x.rsvField ++ x.opField := by
    intro x
    apply BitVec.eq_of_toNat_eq
    simp only [Word.sizeField, Word.rsvField, Word.opField, BitVec.toNat_append, BitVec.extractLsb'_toNat, Nat.shiftRight_eq_div_pow]
    have := x.isLt
    rw [← Nat.shiftLeft_add_eq_or_of_lt (by omega), ← Nat.shiftLeft_add_eq_or_of_lt (by omega), Nat.shiftLeft_eq, Nat.shiftLeft_eq]
    omega
  rw [fields w, fields v, ho, hr, hs]

/-- A word is illegal exactly when it decodes to a reason. -/
theorem legalWord_eq_false {w : Word} : legalWord w = false ↔ ∃ why, decode w = .illegal why := by
  unfold legalWord
  cases decode w <;> simp

/-- A word is legal exactly when it decodes to a command. -/
theorem legalWord_eq_true {w : Word} : legalWord w = true ↔ ∃ i, decode w = .cmd i := by
  unfold legalWord
  cases decode w <;> simp

/-- A word whose RSV field is not 0 is illegal, whatever its opcode (R96). -/
theorem decode_of_rsvField {w : Word} (h : w.rsvField ≠ 0) : decode w = .illegal .reservedBits := by
  unfold decode
  rw [if_pos h]

/-- A reserved opcode (R95). -/
theorem decode_of_reserved {w : Word} (h : Opcode.ofBits w.opField = none) : ∃ why, decode w = .illegal why := by
  unfold decode
  split
  · exact ⟨_, rfl⟩
  · rw [h]; exact ⟨_, rfl⟩

/-- An assigned opcode with RSV = 0: the size field decides, for every command but WRITE_ROW (R93, R97). -/
theorem decode_of_opcode {w : Word} {i : Instr} (h : w.rsvField = 0) : w.opField = i.opcode.bits →
    decode w = match i with
      | .writeRow _ => .cmd (.writeRow w.sizeField)
      | .enable => noOperand w.sizeField .enable
      | .disable => noOperand w.sizeField .disable
      | .startFrame => noOperand w.sizeField .startFrame
      | .endFrame => noOperand w.sizeField .endFrame := by
  intro ho
  unfold decode
  rw [if_neg (by simpa using h), ho, Opcode.ofBits_bits]
  cases i <;> rfl

@[simp] theorem encode_opField (i : Instr) : (encode i).opField = i.opcode.bits := by
  unfold encode Word.opField
  generalize i.size = n
  generalize i.opcode.bits = b
  ext k hk
  have h1 : k < 16 := by omega
  have h2 : k < 32 := by omega
  simp [h1, h2, BitVec.getLsbD_eq_getElem hk]

@[simp] theorem encode_rsvField (i : Instr) : (encode i).rsvField = 0 := by
  unfold encode Word.rsvField
  generalize i.size = n
  generalize i.opcode.bits = b
  ext k hk
  have h1 : 4 + k < 16 := by omega
  simp [h1]

@[simp] theorem encode_sizeField (i : Instr) : (encode i).sizeField = i.size := by
  unfold encode Word.sizeField
  generalize i.size = n
  generalize i.opcode.bits = b
  ext k hk
  have h1 : b.getLsbD (16 + k) = false := BitVec.getLsbD_of_ge _ _ (by omega)
  have h2 : 16 + k < 32 := by omega
  simp [h1, h2, hk]

end Sys2Proof
end

