-- ==== Sys2Proof/Laws/PerInstr.lean ====
section
/-! SUPPORT. The family EncodeFields: what every command's word holds in its three fields (30_encoding.md R91, R92). -/

namespace Sys2Proof.Laws.EncodeFields

/-- The word of a command is `{SIZE, RSV = 0, OP}`, and OP is one of the five assigned opcodes. -/
def Statement (i : Instr) : Prop :=
  (encode i).opField = i.opcode.bits ∧ (encode i).rsvField = 0 ∧ (encode i).sizeField = i.size ∧
  Opcode.ofBits (encode i).opField = some i.opcode

theorem enable : Statement .enable := by simp [Statement]
theorem disable : Statement .disable := by simp [Statement]
theorem startFrame : Statement .startFrame := by simp [Statement]
theorem endFrame : Statement .endFrame := by simp [Statement]
theorem writeRow (n : BitVec 16) : Statement (.writeRow n) := by simp [Statement]

end Sys2Proof.Laws.EncodeFields
end

