-- ==== Sys2Proof/Laws/Run.lean ====
section
/-! SUPPORT. Runs of many edges: how they unfold and compose, and how the inputs move along. -/

namespace Sys2Proof.Machine

@[simp] theorem run_zero (s : State) : run 0 s = .next s := rfl

/-- A run whose first edge is known. -/
theorem run_succ {s t : State} (k : Nat) (h : step s = .next t) : run (k + 1) s = run k t := by simp [run, h]

/-- Runs compose. -/
theorem run_add {s t : State} (j k : Nat) (h : run j s = .next t) : run (j + k) s = run k t := by
  induction j generalizing s with
  | zero => simp at h; subst h; simp
  | succ j ih =>
    cases hs : step s with
    | next u =>
      rw [run_succ _ hs] at h
      rw [Nat.succ_add, run_succ _ hs]
      exact ih h
    | fault r => simp [run, hs] at h
    | refused r => simp [run, hs] at h

/-- The last edge of a run. -/
theorem run_succ_last {s t : State} (k : Nat) (h : run k s = .next t) : run (k + 1) s = step t := by
  rw [run_add k 1 h, run]
  cases step t <;> rfl

/-- A run one edge longer passes through a state after k edges. -/
theorem run_succ_inv {s u : State} {k : Nat} (h : run (k + 1) s = .next u) : ∃ t, run k s = .next t ∧ step t = .next u := by
  induction k generalizing s with
  | zero =>
    refine ⟨s, rfl, ?_⟩
    rw [run] at h
    cases hs : step s <;> simp_all
  | succ k ih =>
    cases hs : step s with
    | next v =>
      rw [run_succ _ hs] at h
      obtain ⟨t, ht, htu⟩ := ih h
      exact ⟨t, by rw [run_succ _ hs]; exact ht, htu⟩
    | fault r => simp [run, hs] at h
    | refused r => simp [run, hs] at h

/-- The inputs of a later edge, seen from the state after one step. -/
theorem inputAt_of_step {s t : State} (h : step s = .next t) (j : Nat) : t.inputAt j = s.inputAt (j + 1) := by
  have : t.inputs = s.inputs.tail := step_inputs h
  simp only [State.inputAt, this]
  cases s.inputs <;> simp

/-- No reset in k + 1 edges: none at the first, and none in the k that follow. -/
theorem noReset_succ {s t : State} {k : Nat} (h : step s = .next t) : NoReset (k + 1) s ↔ s.input.rst = false ∧ NoReset k t := by
  constructor
  · intro hn
    refine ⟨hn 0 (by omega), fun j hj => ?_⟩
    rw [inputAt_of_step h]
    exact hn (j + 1) (by omega)
  · rintro ⟨h0, hn⟩ j hj
    cases j with
    | zero => exact h0
    | succ j => rw [← inputAt_of_step h]; exact hn j (by omega)

/-- An invariant of the step is one of the run. -/
theorem run_preserves {P : State → Prop} (hstep : ∀ s t, P s → step s = .next t → P t) {s t : State} (k : Nat) (hs : P s)
    (h : run k s = .next t) : P t := by
  induction k generalizing s with
  | zero => simp at h; exact h ▸ hs
  | succ k ih =>
    cases hst : step s with
    | next u => rw [run_succ _ hst] at h; exact ih (hstep s u hs hst) h
    | fault r => simp [run, hst] at h
    | refused r => simp [run, hst] at h

/-- The build parameters stay through a run. -/
theorem run_cfg {s t : State} (k : Nat) (h : run k s = .next t) : t.cfg = s.cfg :=
  run_preserves (P := fun u => u.cfg = s.cfg) (fun _ _ h1 h2 => (step_cfg h2).trans h1) k rfl h

/-- The event trace of one more edge. -/
theorem traceFrom_succ {s t : State} (e k : Nat) (h : step s = .next t) :
    traceFrom e (k + 1) s = (t.lastEvent.toList.map fun v => (e, v)) ++ traceFrom (e + 1) k t := by simp [traceFrom, h]

/-- The event trace of a run in two parts. -/
theorem traceFrom_add {s t : State} (e j k : Nat) (h : run j s = .next t) :
    traceFrom e (j + k) s = traceFrom e j s ++ traceFrom (e + j) k t := by
  induction j generalizing s e with
  | zero => simp at h; subst h; simp [traceFrom]
  | succ j ih =>
    cases hs : step s with
    | next u =>
      rw [run_succ _ hs] at h
      rw [Nat.succ_add, traceFrom_succ e (j + k) hs, traceFrom_succ e j hs, ih (e + 1) h, List.append_assoc,
        show e + 1 + j = e + (j + 1) by omega]
    | fault r => simp [run, hs] at h
    | refused r => simp [run, hs] at h

/-- A run is observed exactly where it has ended, and then as its trace and its final registers (R124). -/
theorem observation_eq_some {s t : State} {k : Nat} {o : Observation} (h : run k s = .next t) :
    s.observation k = some o ↔ Ended t ∧
      o = { trace := s.trace k, lines := t.lines, life := t.life, faultIllegal := t.faultIllegal, faultOrder := t.faultOrder } := by
  simp only [State.observation, h]
  split
  · rename_i he
    exact ⟨fun ho => ⟨he, (Option.some.inj ho).symm⟩, fun ho => congrArg some ho.2.symm⟩
  · rename_i he
    exact ⟨fun ho => (Option.some_ne_none o ho.symm).elim, fun ho => (he ho.1).elim⟩

/-- Where a run has ended, an edge without reset changes `ev_valid` only, and the run has still ended (R112, R124). -/
theorem Ended.step {s : State} (h : Ended s) (hok : s.cfg.ok = true) (hr : s.input.rst = false) :
    step s = .next s.noEvent.nextEdge ∧ Ended s.noEvent.nextEdge := by
  have hv : s.input.cmdValid = false := by
    unfold State.input State.inputAt
    cases hs : s.inputs with
    | nil => rfl
    | cons e es => exact h.2 e (by simp [hs])
  exact ⟨by simp [Machine.step, clockEdge, hok, edgeEffect, hr, h.1, hv, idleEdge, advance],
    h.1, fun e he => h.2 e (List.mem_of_mem_tail he)⟩

/-- The state of a block in which a phase has been held for j edges: only the counter has moved, and `ev_valid` has fallen. -/
def State.waited (s : State) (j : Nat) : State :=
  { s with evValid := if j = 0 then s.evValid else false, cnt := s.cfg.sat (s.cnt + j), inputs := s.inputs.drop j }

@[simp] theorem waited_inputAt (s : State) (j k : Nat) : (s.waited j).inputAt k = s.inputAt (j + k) := by
  simp [State.waited, State.inputAt]

@[simp] theorem waited_input (s : State) (j : Nat) : (s.waited j).input = s.inputAt j := by
  simp [State.input]

@[simp] theorem waited_busy (s : State) (j : Nat) : (s.waited j).busy = s.busy := rfl

@[simp] theorem waited_phase (s : State) (j : Nat) : (s.waited j).phase = s.phase := rfl

@[simp] theorem waited_cfg (s : State) (j : Nat) : (s.waited j).cfg = s.cfg := rfl

@[simp] theorem waited_lines (s : State) (j : Nat) : (s.waited j).lines = s.lines := rfl

@[simp] theorem waited_running (s : State) (j : Nat) : (s.waited j).running = s.running := rfl

@[simp] theorem rowOf_waited (i : Instr) (s : State) (j : Nat) : rowOf i (s.waited j) = rowOf i s := by cases i <;> rfl

/-- Holding one more edge. -/
theorem waited_succ (s : State) (j : Nat) : (hold (s.waited j)).nextEdge = s.waited (j + 1) := by
  have hsat : s.cfg.sat (s.cfg.sat (s.cnt + j) + 1) = s.cfg.sat (s.cnt + (j + 1)) := by
    unfold Config.sat; omega
  simp [hold, State.noEvent, State.nextEdge, State.waited, hsat]

/-- A phase that cannot fire in the next j edges holds the block for them: what a run does while a block waits (R112, R164). -/
theorem run_hold {s : State} {i : Instr} {r : PhaseRow} (j : Nat) (hok : s.cfg.ok = true) (hcnt : s.cnt ≤ counterMax s.cfg.cntW)
    (hb : s.busy = true) (hi : s.running = some i) (hrow : rowOf i s = some r) (hr : NoReset j s)
    (hf : ∀ k, k < j → (s.waited k).fires r = false) : run j s = .next (s.waited j) := by
  induction j with
  | zero =>
    have : s.cfg.sat s.cnt = s.cnt := by unfold Config.sat; omega
    simp [State.waited, this]
  | succ j ih =>
    rw [run_succ_last j (ih (fun k hk => hr k (by omega)) (fun k hk => hf k (by omega)))]
    rw [step_of_busy (s := s.waited j) (i := i) (r := r) (by simpa using hok) (by simpa using hr j (by omega)) hb (by simpa using hi) (by simpa using hrow)]
    simp [hf j (by omega), waited_succ]

/-- A phase that holds for j edges and fires at the next one. -/
theorem run_hold_fire {s : State} {i : Instr} {r : PhaseRow} (j : Nat) (hok : s.cfg.ok = true) (hcnt : s.cnt ≤ counterMax s.cfg.cntW)
    (hb : s.busy = true) (hi : s.running = some i) (hrow : rowOf i s = some r) (hr : NoReset (j + 1) s)
    (hf : ∀ k, k < j → (s.waited k).fires r = false) (hfire : (s.waited j).fires r = true) :
    run (j + 1) s = .next (fire i.opcode r (s.waited j)).nextEdge := by
  rw [run_succ_last j (run_hold j hok hcnt hb hi hrow (fun k hk => hr k (by omega)) hf)]
  rw [step_of_busy (s := s.waited j) (i := i) (r := r) (by simpa using hok) (by simpa using hr j (by omega)) hb (by simpa using hi) (by simpa using hrow)]
  simp [hfire]

/-- The longest wait fits the counter of a build that may be built (R10). -/
theorem wait_fits {c : Config} (h : c.ok = true) :
    1 ≤ c.gap ∧ c.gap ≤ counterMax c.cntW ∧ c.hold ≤ counterMax c.cntW ∧ c.settle ≤ counterMax c.cntW ∧ c.gap ≤ c.hold := by
  simp [Config.ok, Config.longestWait] at h
  refine ⟨by omega, by omega, by omega, by omega, le_max_left _ _⟩

/-- A phase other than WR_DATA that has just been entered fires after exactly `req` edges (R114, R118). -/
theorem run_phase {s : State} {i : Instr} {r : PhaseRow} (hok : s.cfg.ok = true) (hb : s.busy = true) (hi : s.running = some i)
    (hrow : rowOf i s = some r) (hcnt : s.cnt = 0) (hp : s.phase ≠ .wrData) (hq : 1 ≤ r.req) (hmax : r.req ≤ counterMax s.cfg.cntW)
    (hr : NoReset r.req s) : run r.req s = .next (fire i.opcode r (s.waited (r.req - 1))).nextEdge := by
  have hreq : r.req - 1 + 1 = r.req := by omega
  rw [← hreq] at hr ⊢
  refine run_hold_fire (r.req - 1) hok (by omega) hb hi hrow hr (fun k hk => ?_) ?_
  · simp [State.fires, State.waited, Config.sat, hcnt]; omega
  · simp [State.fires, State.waited, Config.sat, hcnt, hp]; omega

end Sys2Proof.Machine
end

