-- ==== Sys2Proof/Machine/Assembler.lean ====
section
/-! DEFINITION. Reading a line of assembly text (30_encoding.md R100, R101). Nothing of the block: the notation of the spec's programs. What R100
does not say of it (blanks, letter case, digits) is fixed as log 12 names. -/

namespace Sys2Proof

/-- The tokens of a line. -/
inductive Token where
  | word (name : List Char)
  | num (n : Nat)
  | comma
  | openList
  | closeList
  | openArgs
  | closeArgs
  deriving DecidableEq, Repr

/-- The value of a digit in the given base. -/
def digitIn (base : Nat) (c : Char) : Option Nat :=
  let v :=
    if '0' ≤ c ∧ c ≤ '9' then c.toNat - '0'.toNat
    else if 'a' ≤ c ∧ c ≤ 'f' then c.toNat - 'a'.toNat + 10
    else if 'A' ≤ c ∧ c ≤ 'F' then c.toNat - 'A'.toNat + 10
    else 16
  if v < base then some v else none

/-- A number from its digits, most significant first; none if a character is no digit. -/
def readDigits (base : Nat) : List Char → Nat → Option Nat
  | [], acc => some acc
  | c :: cs, acc =>
    match digitIn base c with
    | none => none
    | some v => readDigits base cs (acc * base + v)

/-- A run of letters, digits and underscores: a number, decimal or hexadecimal with 0x, if it begins with a digit; else a name. -/
def readAtom : List Char → Option Token
  | '0' :: 'x' :: c :: cs => (readDigits 16 (c :: cs) 0).map .num
  | c :: cs => if (digitIn 10 c).isSome then (readDigits 10 (c :: cs) 0).map .num else some (.word (c :: cs))
  | [] => none

/-- The pending run of characters, in reverse, as a token before the tokens that follow. -/
def flushAtom (pending : List Char) (rest : Option (List Token)) : Option (List Token) :=
  match pending with
  | [] => rest
  | c :: cs =>
    match readAtom (c :: cs).reverse, rest with
    | some t, some ts => some (t :: ts)
    | _, _ => none

/-- A punctuation token before the tokens that follow. -/
def putToken (t : Token) (rest : Option (List Token)) : Option (List Token) := rest.map (t :: ·)

/-- A letter, a digit or an underscore. -/
def isAtomChar (c : Char) : Bool :=
  decide ('a' ≤ c ∧ c ≤ 'z') || decide ('A' ≤ c ∧ c ≤ 'Z') || decide ('0' ≤ c ∧ c ≤ '9') || c == '_'

/-- The tokens of a line. A `;` starts a comment that runs to the end of the line (R100). -/
def tokens : List Char → List Char → Option (List Token)
  | [], pending => flushAtom pending (some [])
  | c :: cs, pending =>
    if c = ';' then flushAtom pending (some [])
    else if c = ' ' ∨ c = '\t' then flushAtom pending (tokens cs [])
    else if c = ',' then flushAtom pending (putToken .comma (tokens cs []))
    else if c = '[' then flushAtom pending (putToken .openList (tokens cs []))
    else if c = ']' then flushAtom pending (putToken .closeList (tokens cs []))
    else if c = '(' then flushAtom pending (putToken .openArgs (tokens cs []))
    else if c = ')' then flushAtom pending (putToken .closeArgs (tokens cs []))
    else if isAtomChar c then tokens cs (c :: pending)
    else none

/-- The numbers of a list after its first one, and what follows the closing bracket. -/
def moreNumbers : List Token → Option (List Nat × List Token)
  | .closeList :: rest => some ([], rest)
  | .comma :: .num v :: rest => (moreNumbers rest).map fun p => (v :: p.1, p.2)
  | _ => none

/-- A list of numbers in brackets, and what follows it. -/
def numberList : List Token → Option (List Nat × List Token)
  | .openList :: .closeList :: rest => some ([], rest)
  | .openList :: .num v :: rest => (moreNumbers rest).map fun p => (v :: p.1, p.2)
  | _ => none

/-- The rows of FRAME or CYCLE after the first, each after a comma; the fuel is the number of tokens. -/
def moreRows : Nat → List Token → Option (List (List Nat))
  | _, [] => some []
  | fuel + 1, .comma :: rest =>
    match numberList rest with
    | none => none
    | some (r, rest') => (moreRows fuel rest').map (r :: ·)
  | _, _ => none

/-- The rows of FRAME or CYCLE: none, or byte lists separated by commas (R101). -/
def rowList : List Token → Option (List (List Nat))
  | [] => some []
  | ts =>
    match numberList ts with
    | none => none
    | some (r, rest) => (moreRows rest.length rest).map (r :: ·)

/-- The operands of WRITE_ROW: `n, [b0, ...]`, then what must follow. -/
def rowOperands (close : List Token) : List Token → Option AsmLine
  | .num n :: .comma :: rest =>
    match numberList rest with
    | none => none
    | some (bytes, rest') => if rest' = close then some (.core (.writeRow n bytes)) else none
  | _ => none

/-- A statement that is a name alone. -/
def bareLine (l : AsmLine) (rest : List Token) : Option AsmLine := if rest = [] then some l else none

/-- A statement from its name and what follows it: the mnemonics, the pseudo-instructions and the source's own names as aliases (R100, R101). -/
def readStatement (name : List Char) (rest : List Token) : Option AsmLine :=
  if name = "ENABLE".toList ∨ name = "enable".toList then bareLine (.core .enable) rest
  else if name = "DISABLE".toList ∨ name = "disable".toList then bareLine (.core .disable) rest
  else if name = "START_FRAME".toList ∨ name = "startFrame".toList then bareLine (.core .startFrame) rest
  else if name = "END_FRAME".toList ∨ name = "endFrame".toList then bareLine (.core .endFrame) rest
  else if name = "WRITE_ROW_EMPTY".toList then bareLine .writeRowEmpty rest
  else if name = "WRITE_ROW".toList then rowOperands [] rest
  else if name = "writeRow".toList then
    match rest with
    | .openArgs :: ts => rowOperands [.closeArgs] ts
    | _ => none
  else if name = "FRAME".toList then (rowList rest).map .frame
  else if name = "CYCLE".toList then (rowList rest).map .cycle
  else none

/-- One line of text: `none` where it is no line of the syntax, `some none` where it holds no statement (R100). -/
def readLine (line : String) : Option (Option AsmLine) :=
  match tokens line.toList [] with
  | none => none
  | some [] => some none
  | some (.word name :: rest) => (readStatement name rest).map some
  | some _ => none

/-- The words and stream bytes of one line of text; none where the assembler refuses it (R100). -/
def assembleText (line : String) : Option (List (Word × List Byte)) :=
  match readLine line with
  | none => none
  | some none => some []
  | some (some l) => assemble l

end Sys2Proof
end

