-- ==== Sys2Proof/Tests/Slice0.lean ====
section
/-! SUPPORT. The model's own tests, and for every statement with hypotheses a state and operands that meet them all. Expected values are the
vectors of 95_test_vectors.md (V-…, W…), or worked out by hand from the rule that the docstring names. -/

set_option maxRecDepth 20000

namespace Sys2Proof.Tests

open Sys2Proof.Machine

-- ==== Helpers ====

/-- The build of V-P5: G = 2, H = 3, S = 3, CNT_W = 2. -/
def build : Config := { fClkHz := 3000000, gap := 2, tDcdcSettleNs := 1000 }

/-- An edge at which the host offers a word and a byte. -/
def offering (w : Word) (v : Byte) : EdgeInput := { rst := false, cmdValid := true, cmd := w, dinValid := true, din := v }

/-- An edge at which the host offers only a byte. -/
def feeding (v : Byte) : EdgeInput := { rst := false, cmdValid := false, cmd := 0, dinValid := true, din := v }

/-- A reset edge, with a word offered. -/
def resetting : EdgeInput := { rst := true, cmdValid := true, cmd := 0x00000001, dinValid := true, din := 0xFF }

/-- A quiescent block in a lifecycle state, its lines as that state leaves them. -/
def quiescentIn (c : Config) (l : Life) (inputs : List EdgeInput) : State :=
  { State.resetOf c inputs with
    life := l, dcdc := decide (l = .disabled), oe := decide (l = .frameOpen), mode := decide (l = .frameOpen) }

/-- A block that stands at a phase of a command, its lines as the phases before it leave them; `k` is its counter. -/
def standing (c : Config) (i : Instr) (l : Life) (p : Phase) (k : Nat) (inputs : List EdgeInput) : State :=
  { State.resetOf c inputs with
    life := l, busy := true, phase := p, op := i.opcode.bits, size := i.size, cnt := k,
    idx := if p ∈ [.wrStlHi, .wrXclHi, .wrXclLo, .wrLeHi, .wrLeLo, .wrCkvLo, .wrCkvHi] then i.size else 0,
    dcdc := decide (l = .disabled) && !decide (p = .enSettle),
    oe := decide (l = .frameOpen) || decide (p ∈ [.sfModeHi, .sfSpvLo, .sfCkvLo, .sfCkvHi, .sfSpvHi]),
    mode := decide (l = .frameOpen) && !decide (p = .efOeLo) || decide (p ∈ [.sfSpvLo, .sfCkvLo, .sfCkvHi, .sfSpvHi]),
    spv := !decide (p ∈ [.sfCkvLo, .sfCkvHi, .sfSpvHi]),
    ckv := !decide (p ∈ [.sfCkvHi, .wrCkvHi]),
    stl := !decide (p ∈ [.wrData, .wrClHi, .wrClLo, .wrStlHi]),
    cl := decide (p ∈ [.wrClLo, .wrXclLo]),
    le := decide (p = .wrLeLo) }

/-- The outcome is a next state with a property. -/
def nextHas (o : Outcome) (p : State → Bool) : Bool :=
  match o with
  | .next t => p t
  | .fault _ => false
  | .refused _ => false

theorem next_of_nextHas {o : Outcome} {p : State → Bool} (h : nextHas o p = true) : ∃ t, o = .next t ∧ p t = true := by
  cases o with
  | next t => exact ⟨t, rfl, h⟩
  | fault r => simp [nextHas] at h
  | refused r => simp [nextHas] at h

/-- `NoReset` of an input list without a reset, for any number of edges. -/
theorem noReset_of_all {s : State} (h : s.inputs.all (fun e => !e.rst) = true) (k : Nat) : NoReset k s := by
  intro j _
  unfold State.inputAt
  cases hj : s.inputs[j]? with
  | none => simp [hj, EdgeInput.quiet]
  | some e => simpa [hj] using List.all_eq_true.mp h e (List.mem_of_getElem? hj)

/-- `BusyThrough` of a concrete run. -/
theorem busyThrough_of_all {s : State} {k : Nat} (h : (List.range k).all (fun j => nextHas (run (j + 1) s) State.busy) = true) :
    BusyThrough k s := by
  intro j h1 hk
  have := List.all_eq_true.mp h (j - 1) (by simp; omega)
  rw [show j - 1 + 1 = j by omega] at this
  exact next_of_nextHas this

/-- A word offered to a quiescent block. -/
theorem offered_of_quiescent {c : Config} (hc : c.ok = true) (l : Life) (w : Word) (v : Byte) (later : List EdgeInput) :
    Offered (quiescentIn c l (offering w v :: later)) w :=
  ⟨hc, rfl, rfl, rfl, rfl⟩

-- ==== Decoding: words written out from 30_encoding.md R91, R92 (SIZE, RSV, OP) ====

theorem test_decode_enable : decode (0b0000000000000000#16 ++ 0b000000000000#12 ++ 0b0001#4) = .cmd .enable := by decide
theorem test_decode_disable : decode (0b0000000000000000#16 ++ 0b000000000000#12 ++ 0b0010#4) = .cmd .disable := by decide
theorem test_decode_startFrame : decode (0b0000000000000000#16 ++ 0b000000000000#12 ++ 0b0011#4) = .cmd .startFrame := by decide
theorem test_decode_endFrame : decode (0b0000000000000000#16 ++ 0b000000000000#12 ++ 0b0100#4) = .cmd .endFrame := by decide
/-- V-E5 to V-E9. -/
theorem test_decode_writeRow :
    decode (0b0000000000000000#16 ++ 0b000000000000#12 ++ 0b0101#4) = .cmd (.writeRow 0) ∧
    decode (0b0000000000000001#16 ++ 0b000000000000#12 ++ 0b0101#4) = .cmd (.writeRow 1) ∧
    decode 0x00030005 = .cmd (.writeRow 3) ∧ decode 0x01000005 = .cmd (.writeRow 256) ∧
    decode (0b1111111111111111#16 ++ 0b000000000000#12 ++ 0b0101#4) = .cmd (.writeRow 65535) := by decide
/-- V-E10 to V-E20. -/
theorem test_decode_illegal :
    [0x00000000, 0x00000006, 0x0000000F, 0x00000015, 0x00008001, 0x00000010, 0x00010001, 0x80000004, 0x00100003, 0xFFFFFFFF,
     0x00050000].all (fun w : Word => !legalWord w) = true := by decide
theorem test_encode :
    encode .enable = 0x00000001 ∧ encode .disable = 0x00000002 ∧ encode .startFrame = 0x00000003 ∧ encode .endFrame = 0x00000004 ∧
    encode (.writeRow 3) = 0x00030005 ∧ encode (.writeRow 65535) = 0xFFFF0005 := by decide
theorem test_decodeTableWord :
    decodeTableWord 32 0x00030005 = some (.writeRow 3) ∧ decodeTableWord 8 2 = some .disable ∧ decodeTableWord 32 0x15 = none := by decide

-- ==== Checks on written programs and on build parameters ====

/-- The length does not agree; n is above 65535; a byte is above 255 (R100): each is refused, and its legal neighbour is not. -/
theorem test_wellFormed_length :
    (AsmCore.writeRow 2 [1]).wellFormed = false ∧ (AsmCore.writeRow 0 [1]).wellFormed = false ∧
    (AsmCore.writeRow 1 [1]).wellFormed = true := by decide
theorem test_wellFormed_byte :
    (AsmCore.writeRow 1 [256]).wellFormed = false ∧ (AsmCore.writeRow 1 [255]).wellFormed = true ∧
    (AsmLine.frame [[0], [300]]).wellFormed = false ∧ (AsmLine.cycle [[256]]).wellFormed = false := by decide
theorem test_wellFormed_size :
    (∀ bytes, (AsmCore.writeRow 65536 bytes).wellFormed = false) ∧ sizeFits 65536 = false ∧ sizeFits 65535 = true := by
  have h : sizeFits 65536 = false := by decide
  exact ⟨fun bytes => by simp only [AsmCore.wellFormed, h, Bool.and_false, Bool.false_and], h, by decide⟩
/-- What the assembler gives and refuses (R100, R101; W7 as one line). -/
theorem test_assembleText_row :
    assembleText "WRITE_ROW 3, [0xFF, 0x00, 170] ; row" = some [(0x00030005, [0xFF, 0x00, 0xAA])] := by decide
theorem test_assembleText_cycle :
    assembleText "CYCLE [0xFF], []" =
      some [(1, []), (3, []), (0x00010005, [0xFF]), (0x00000005, []), (4, []), (2, [])] := by decide
theorem test_assembleText_alias : assembleText "writeRow(1, [25])" = some [(0x00010005, [25])] := by decide
theorem test_assembleText_refused : assembleText "WRITE_ROW 1, [256]" = none ∧ assembleText "WRITE_ROW 2, [1]" = none := by decide

/-- Each constraint of R10 refuses a build, V-P6 (G = 0) among them. -/
theorem test_config_refused :
    Config.ok { build with gap := 0 } = false ∧ Config.ok { build with fClkHz := 0 } = false ∧
    Config.ok { build with tCkvLowNs := 0 } = false ∧ Config.ok { build with tDcdcSettleNs := 0 } = false ∧
    Config.ok { build with sizeW := 8 } = false ∧ Config.ok { build with cntW := 1 } = false ∧ build.ok = true := by decide
/-- V-P1 to V-P5: C, H, S and the default CNT_W. -/
theorem test_config_vectors :
    [Config.sample, { fClkHz := 1000000 }, { fClkHz := 33333333 }, { fClkHz := 1000000, gap := 4 },
     build].map (fun c : Config => (c.ckvLow, c.hold, c.settle, c.cntW)) =
      [(10, 10, 1000000, 20), (1, 1, 100000, 17), (34, 34, 3333334, 22), (1, 4, 100000, 17), (3, 3, 3, 2)] := by decide

-- ==== One edge ====

/-- V-X1, R214: the reset state and its outputs. -/
theorem test_reset : State.reset.status = 0x00 ∧ State.reset.cmdReady = true ∧ State.reset.dinReady = false ∧
    State.reset.lines =
      { spv := true, ckv := true, mode := false, stl := true, oe := false, le := false, cl := false, dcdc := true, d := 0x00 } := by decide
/-- V-X2, V-X3: reset wins over an offered word. -/
theorem test_reset_wins : nextHas (step (standing build (.writeRow 1) .frameOpen .wrCkvHi 2 [resetting]))
    (fun t => decide (t = State.resetOf build [])) = true := by decide
/-- V-E21: an illegal word after reset. -/
theorem test_illegal_after_reset : nextHas (step (State.reset.withFetchWord 32 0x00000006))
    (fun t => decide (t = { State.reset with faultIllegal := true }) && t.status == 0x10) = true := by decide
/-- V-W7: ENABLE accepted after reset. -/
theorem test_enable_accepted : nextHas (step (State.reset.withFetchWord 32 1))
    (fun t => t.status == 0x04 && !t.cmdReady && decide (t.phase = .enDcdcLo) && !t.evValid) = true := by decide
/-- V-W1, V-W8: the event, one edge after acceptance; and completion, at edge 1 000 001, where `cnt` = 999 999. -/
theorem test_enable_event_and_completion :
    nextHas (exec .enable (standing Config.sample .enable .disabled .enDcdcLo 0 []))
      (fun t => !t.dcdc && t.evValid && t.evSig == 8 && t.evVal == 0 && decide (t.phase = .enSettle) && t.cnt == 0) = true ∧
    nextHas (exec .enable (standing Config.sample .enable .disabled .enSettle 999999 []))
      (fun t => t.status == 0x01 && t.cnt == 0 && !t.evValid) = true := by decide
/-- V-W6: DISABLE in an open frame leaves MODE and OE at 1. -/
theorem test_disable_event : nextHas (exec .disable (standing build .disable .frameOpen .disDcdcHi 1 []))
    (fun t => t.dcdc && t.mode && t.oe && decide (t.life = .disabled) && !t.busy && t.evSig == 8 && t.evVal == 1) = true := by decide
/-- V-W5: DISABLE out of order. -/
theorem test_disable_order : nextHas (exec .disable (quiescentIn build .disabled [])) (fun t => t.status == 0x0C) = true := by decide
/-- V-F1, V-X5: SPV=0 at edge 3. -/
theorem test_startFrame_spv : nextHas (exec .startFrame (standing Config.sample .startFrame .idle .sfSpvLo 0 []))
    (fun t => !t.spv && t.evSig == 0 && t.evVal == 0 && decide (t.phase = .sfCkvLo)) = true := by decide
/-- V-F1: CKV=1 comes H = 10 edges after CKV=0, not before. -/
theorem test_startFrame_hold :
    nextHas (exec .startFrame (standing Config.sample .startFrame .idle .sfCkvHi 8 [])) (fun t => !t.ckv && t.cnt == 9 && !t.evValid) = true ∧
    nextHas (exec .startFrame (standing Config.sample .startFrame .idle .sfCkvHi 9 [])) (fun t => t.ckv && t.cnt == 0 && t.evValid) = true := by
  decide
/-- V-F4: the second event and completion. -/
theorem test_endFrame_oe : nextHas (exec .endFrame (standing Config.sample .endFrame .frameOpen .efOeLo 0 []))
    (fun t => !t.oe && t.status == 0x01 && t.evSig == 4 && t.evVal == 0) = true := by decide
/-- V-F5: END_FRAME in Idle records ORDER. -/
theorem test_endFrame_order : nextHas (exec .endFrame (quiescentIn build .idle [])) (fun t => t.status == 0x0D) = true := by decide
/-- V-X6: the bus event of V-R2; and the last byte of the largest row (R169), where `idx + 1 < size` does not wrap. -/
theorem test_writeRow_byte_and_largest :
    nextHas (exec (.writeRow 1) (standing Config.sample (.writeRow 1) .frameOpen .wrData 0 [feeding 0x5A]))
      (fun t => t.d == 0x5A && t.evSig == 7 && t.evVal == 0x5A && decide (t.phase = .wrClHi)) = true ∧
    nextHas (exec (.writeRow 65535) { standing Config.sample (.writeRow 65535) .frameOpen .wrClLo 0 [] with idx := 65534 })
      (fun t => decide (t.phase = .wrStlHi) && t.idx == 65535 && !t.cl) = true := by decide
/-- V-R11: WRITE_ROW 1, [0xC3] with G = 2, H = 3, the whole trace. -/
theorem test_writeRow_trace :
    (quiescentIn build .frameOpen (offering 0x00010005 0 :: List.replicate 23 (feeding 0xC3))).trace 24 =
      [(2, Line.stl.event false), (4, busEvent 0xC3), (6, Line.cl.event true), (8, Line.cl.event false), (10, Line.stl.event true),
       (12, Line.cl.event true), (14, Line.cl.event false), (16, Line.le.event true), (18, Line.le.event false),
       (20, Line.ckv.event false), (23, Line.ckv.event true)] := by decide

-- ==== Witnesses: the encoding and the build parameters ====

/-- Words at the bounds of every clause about opcodes, RSV and SIZE. -/
theorem witness_reservedOpcodes :
    (Word.opField 0x00000000 = 0x0#4) ∧ 0x6#4 ≤ Word.opField 0x00000006 ∧ 0x6#4 ≤ Word.opField 0x0000000F ∧
    Word.opField 0x00000000 ∉ [0x1#4, 0x2#4, 0x3#4, 0x4#4, 0x5#4] ∧ Word.opField 0x00000006 ∉ [0x1#4, 0x2#4, 0x3#4, 0x4#4, 0x5#4] := by
  decide

theorem witness_reservedBits : Word.rsvField 0x00000010 ≠ 0 ∧ Word.rsvField 0x00008001 ≠ 0 := by decide

theorem witness_rowWords :
    Word.rsvField 0x00000005 = 0 ∧ Word.opField 0x00000005 = 0x5#4 ∧ Word.rsvField 0xFFFF0005 = 0 ∧ Word.opField 0xFFFF0005 = 0x5#4 := by
  decide

theorem witness_sizeNotZero :
    0x1#4 ≤ Word.opField 0x00010001 ∧ Word.opField 0x00010001 ≤ 0x4#4 ∧ Word.sizeField 0x00010001 ≠ 0 ∧
    0x1#4 ≤ Word.opField 0x80000004 ∧ Word.opField 0x80000004 ≤ 0x4#4 ∧ Word.sizeField 0x80000004 ≠ 0 := by decide

/-- A word with an opcode that has no operand, with size 0 and with another size, for each of the four. -/
theorem witness_noOperandWords :
    ∀ i ∈ [Instr.enable, .disable, .startFrame, .endFrame],
      i.opcode ≠ .writeRow ∧ (encode i).rsvField = 0 ∧ (encode i).opField = i.opcode.bits ∧ (encode i).sizeField = 0 ∧
      (encode i ||| 0x00010000).rsvField = 0 ∧ (encode i ||| 0x00010000).opField = i.opcode.bits ∧
      (encode i ||| 0x00010000).sizeField ≠ 0 := by decide

/-- AssembledLinesDecodeBack: lines that are accepted, one of each kind, and lines that are refused. -/
theorem witness_assembledLines :
    (∀ l ∈ [AsmLine.core .enable, .core .disable, .core .startFrame, .core .endFrame, .core (.writeRow 0 []),
      .core (.writeRow 2 [0, 255]), .writeRowEmpty, .frame [[1], []], .cycle [[1, 2]]], l.wellFormed = true) ∧
    (∀ l ∈ [AsmLine.core (.writeRow 2 [0]), .core (.writeRow 1 [256]), .frame [[256]], .cycle [[0], [256]]], l.wellFormed = false) := by
  decide

/-- IllegalConfigurationIsRefused, DefaultCounterWidthIsSmallest, OutputsAfterReset: builds on each side, and the default CNT_W. -/
theorem witness_config :
    build.ok = true ∧ (State.resetOf { build with gap := 0 } []).cfg.ok = false ∧ (State.resetOf build []).cfg.ok = true ∧
    build.longestWait ≤ 2 ^ 2 - 1 ∧ build.SpecPads ∧ Config.sample.ok = true := by decide

-- ==== Witnesses: one edge ====

/-- StepRunsTheOfferedCommand, for every command; PlacedWordIsRunByTheNextStep. -/
theorem witness_offeredCommands :
    ∀ i ∈ [Instr.enable, .disable, .startFrame, .endFrame, .writeRow 0, .writeRow 65535],
      Offered (quiescentIn build .idle (offering (encode i) 0 :: [])) (encode i) ∧ decode (encode i) = .cmd i ∧
      decodeTableWord 32 (encode i).toNat = some i := by
  intro i hi
  refine ⟨offered_of_quiescent (by decide) .idle _ 0 [], ?_⟩
  revert i
  decide

/-- StepRunsTheCapturedCommand, for every phase of every command. -/
theorem witness_capturedCommands :
    ∀ i ∈ [Instr.enable, .disable, .startFrame, .endFrame, .writeRow 2], ∀ p ∈ phasesOf i.opcode,
      let s := standing build i .idle p 0 []
      s.cfg.ok = true ∧ s.input.rst = false ∧ s.busy = true ∧ s.op = i.opcode.bits ∧ s.size = i.size := by decide

/-- PlacedWordIsRunByTheNextStep: a quiescent and a busy block. -/
theorem witness_placedWord :
    decodeTableWord 32 0x00030005 = some (.writeRow 3) ∧ State.reset.cfg.ok = true ∧ State.reset.busy = false ∧
    (standing build .enable .disabled .enSettle 0 []).cfg.ok = true ∧ (standing build .enable .disabled .enSettle 0 []).busy = true := by
  decide

/-- IllegalWordOnlyRecordsItsFault. -/
theorem witness_illegalWord :
    Offered (quiescentIn build .idle [offering 0x00000000 0]) 0x00000000 ∧ legalWord 0x00000000 = false :=
  ⟨offered_of_quiescent (by decide) _ _ _ _, by decide⟩

/-- QuietEdgeKeepsEveryRegister. -/
theorem witness_quietEdge :
    let s := quiescentIn build .frameOpen []
    s.cfg.ok = true ∧ s.busy = false ∧ s.input.rst = false ∧ s.input.cmdValid = false := by decide

/-- ResetEdgeWinsOverEverything, ResetInARowsCkvPulse and the last clause of MissingByteHangsTheRow: reset edges in a row, with and
without the spec's pad levels. -/
theorem witness_resetEdge :
    (let s := standing build (.writeRow 1) .frameOpen .wrCkvHi 1 [resetting]
     Consistent s ∧ s.cfg.ok = true ∧ s.input.rst = true ∧ s.cfg.SpecPads ∧ s.phase = .wrCkvHi ∧ s.life = .frameOpen) ∧
    (let s := standing { build with padCl := true } (.writeRow 1) .frameOpen .wrData 1 [resetting]
     s.cfg.ok = true ∧ s.input.rst = true ∧ ¬s.cfg.SpecPads ∧ s.phase = .wrData) :=
  ⟨⟨consistent_of_check (by decide), by decide⟩, by decide⟩

-- ==== Witnesses: acceptance and phases ====

/-- AcceptanceCapturesTheCommand: a quiescent block in each lifecycle state. -/
theorem witness_acceptance : ∀ l ∈ [Life.disabled, .idle, .frameOpen], (quiescentIn build l []).busy = false := by decide

/-- The phases of every command where they fire: enough edges (at the exact edge, here, for each wait), and a byte. -/
theorem witness_phasesFire :
    ∀ i ∈ [Instr.enable, .disable, .startFrame, .endFrame, .writeRow 2], ∀ p ∈ phasesOf i.opcode,
      let k := if p ∈ [.enSettle, .sfCkvHi, .wrCkvHi] then 2 else 1
      let s := standing build i .idle p k [feeding 7]
      s.busy = true ∧ s.phase = p ∧ s.input.dinValid = true ∧
      (if p = .enSettle then s.cnt + 1 = s.cfg.settle
       else if p ∈ [.sfCkvHi, .wrCkvHi] then s.cnt + 1 = s.cfg.hold
       else s.cnt + 1 = s.cfg.gap) := by decide

/-- PhaseThatCannotFireHolds: every phase one edge early, and WR_DATA with enough edges but no byte. -/
theorem witness_phasesHold :
    (∀ i ∈ [Instr.enable, .disable, .startFrame, .endFrame, .writeRow 2], ∀ p ∈ phasesOf i.opcode,
      let s := standing build i .idle p (if p ∈ [.enSettle, .sfCkvHi, .wrCkvHi] then 1 else 0) []
      s.busy = true ∧ s.phase ∈ phasesOf i.opcode ∧
      (if s.phase = .enSettle then s.cnt + 1 < s.cfg.settle
       else if s.phase = .sfCkvHi ∨ s.phase = .wrCkvHi then s.cnt + 1 < s.cfg.hold
       else s.cnt + 1 < s.cfg.gap ∨ (s.phase = .wrData ∧ s.input.dinValid = false))) ∧
    (let s := standing build (.writeRow 2) .frameOpen .wrData 1 []
     s.cfg.gap ≤ s.cnt + 1 ∧ s.phase = .wrData ∧ s.input.dinValid = false) := by decide

/-- StrayPhaseIsStuck: a busy block at a phase of another command, and at one of its own. -/
theorem witness_strayPhase :
    (standing build .enable .disabled .wrData 0 []).busy = true ∧ Phase.wrData ∉ phasesOf Instr.enable.opcode ∧
    (standing build .enable .disabled .enSettle 0 []).busy = true ∧ Phase.enSettle ∈ phasesOf Instr.enable.opcode := by decide

/-- CommandsKeepOtherRegisters: every phase of every command answers a next state, firing and holding. -/
theorem witness_phasesAnswer :
    ∀ i ∈ [Instr.enable, .disable, .startFrame, .endFrame, .writeRow 2], ∀ p ∈ phasesOf i.opcode, ∀ k ∈ [0, 3],
      ∃ t, (standing build i .frameOpen p k [feeding 1]).busy = true ∧ exec i (standing build i .frameOpen p k [feeding 1]) = .next t := by
  intro i hi p hp k hk
  suffices h : nextHas (exec i (standing build i .frameOpen p k [feeding 1])) (fun _ => true) = true by
    obtain ⟨t, ht, -⟩ := next_of_nextHas h
    exact ⟨t, rfl, ht⟩
  revert k p i
  decide

-- ==== Witnesses: whole commands ====

/-- EnableRunsToCompletion, DisableRunsToCompletion, StartFrameRunsToCompletion, EndFrameRunsToCompletion: the words offered in every lifecycle
state, with no reset for as long as wished; and a word of ENABLE's opcode that is not ENABLE's. -/
theorem witness_commandRuns :
    ∀ w ∈ ([1, 2, 3, 4] : List Word), ∀ l ∈ [Life.disabled, .idle, .frameOpen], ∀ k : Nat,
      Offered (quiescentIn build l [offering w 0]) w ∧ NoReset k (quiescentIn build l [offering w 0]) :=
  fun w _ l _ k => ⟨offered_of_quiescent (by decide) l w 0 [], noReset_of_all (by simp [quiescentIn, State.resetOf, offering]) k⟩

theorem witness_enableWord : Word.opField 0x00010001 = 0x1#4 ∧ (0x00010001 : Word) ≠ 0x00000001 := by decide

/-- Two bytes that come at edges 5 and 13, after waits of 1 and 2 edges. -/
def waitingRow : State :=
  quiescentIn build .frameOpen (offering 0x00020005 0 :: (List.range 40).map fun k =>
    { rst := false, cmdValid := true, cmd := 0, dinValid := decide (k + 1 = 5 ∨ k + 1 = 13), din := BitVec.ofNat 8 k })

/-- WriteRowRunsToCompletion: a row of two bytes that both come late. -/
theorem witness_writeRow_waiting :
    Offered waitingRow (((2#16).setWidth 32 <<< 16) ||| 0x00000005#32) ∧ NoReset (rowEdges 2 3 (fun i => i + 1) 2 + 1) waitingRow ∧
    BytesComeAfter waitingRow (fun i => i + 1) 2 :=
  ⟨⟨by decide, by decide, by decide, by decide, by decide⟩, noReset_of_all (by decide) _, by unfold BytesComeAfter; decide⟩

theorem waitedBefore_zero (n : Nat) : waitedBefore (fun _ => 0) n = 0 := by
  induction n with
  | zero => rfl
  | succ n ih => simp [waitedBefore, ih]

/-- WriteRowRunsToCompletion: a row of any size, from 0 to 65535, whose bytes come at once. -/
theorem witness_writeRow_anySize (n : BitVec 16) :
    ∃ s, s.cfg = build ∧ Offered s ((n.setWidth 32 <<< 16) ||| 0x00000005#32) ∧
      NoReset (rowEdges s.cfg.gap s.cfg.hold (fun _ => 0) n.toNat + 1) s ∧ BytesComeAfter s (fun _ => 0) n.toNat := by
  refine ⟨quiescentIn build .frameOpen (offering ((n.setWidth 32 <<< 16) ||| 0x00000005#32) 0 :: List.replicate 400000 (feeding 1)),
    rfl, offered_of_quiescent (by decide) _ _ _ _, noReset_of_all ?_ _, fun i hi => ⟨fun j hj => absurd hj (Nat.not_lt_zero j), ?_⟩⟩
  · simp only [quiescentIn, State.resetOf, List.all_cons, List.all_replicate, offering, feeding]
    simp
  · have hn := n.isLt
    simp only [byteEdge, waitedBefore_zero, State.inputAt, quiescentIn, State.resetOf, build, Nat.add_zero]
    rw [show (3 * i + 2) * 2 = (6 * i + 3) + 1 by omega, List.getD_cons_succ, List.getD_eq_getElem?_getD,
      List.getElem?_replicate_of_lt (by omega)]
    rfl

/-- A state that runs a command to its end under `build`, with bytes at every edge. -/
def runsOf (i : Instr) : State := quiescentIn build .frameOpen (offering (encode i) 0 :: List.replicate 40 (feeding 6))

/-- EventsFollowTheEventSequence: every command, to its completion. -/
theorem witness_eventSequence :
    ∀ x ∈ [(Instr.enable, 5), (.disable, 2), (.startFrame, 13), (.endFrame, 4), (.writeRow 0, 17), (.writeRow 2, 29)],
      ∃ u, Offered (runsOf x.1) (encode x.1) ∧ NoReset (x.2 + 1) (runsOf x.1) ∧ BusyThrough x.2 (runsOf x.1) ∧
        run (x.2 + 1) (runsOf x.1) = .next u ∧ u.busy = false := by
  intro x hx
  have h1 : (List.range x.2).all (fun j => nextHas (run (j + 1) (runsOf x.1)) State.busy) = true := by revert x; decide
  have h2 : nextHas (run (x.2 + 1) (runsOf x.1)) (fun u => !u.busy) = true := by revert x; decide
  obtain ⟨u, hu, hb⟩ := next_of_nextHas h2
  exact ⟨u, offered_of_quiescent (by decide) _ _ _ _, noReset_of_all (by simp [runsOf, quiescentIn, State.resetOf, offering, feeding]) _,
    busyThrough_of_all h1, hu, by simpa using hb⟩

/-- RepeatedEnableLeavesTheLines in Idle and in FrameOpen; DisableOutOfOrder in Disabled and in FrameOpen. -/
theorem witness_outOfOrder :
    (∀ l ∈ [Life.idle, .frameOpen], Consistent (quiescentIn build l [offering 1 0]) ∧ (quiescentIn build l [offering 1 0]).life ≠ .disabled ∧
      Offered (quiescentIn build l [offering 1 0]) 0x00000001 ∧ NoReset 6 (quiescentIn build l [offering 1 0])) ∧
    (∀ l ∈ [Life.disabled, .frameOpen], Consistent (quiescentIn build l [offering 2 0]) ∧ (quiescentIn build l [offering 2 0]).life = l ∧
      Offered (quiescentIn build l [offering 2 0]) 0x00000002 ∧ NoReset 3 (quiescentIn build l [offering 2 0])) := by
  constructor <;> intro l hl <;>
    refine ⟨consistent_of_check (by revert l; decide), by revert l; decide, offered_of_quiescent (by decide) _ _ _ _,
      noReset_of_all (by simp [quiescentIn, State.resetOf, offering]) _⟩

-- ==== Witnesses: the whole machine ====

/-- Consistent states, quiescent and busy at every phase of a command in order: for EveryStepKeepsTheInvariant, NoReachableStateStops and
StepIsTheRulesStep. -/
theorem witness_consistent :
    (∀ l ∈ [Life.disabled, .idle, .frameOpen], Consistent (quiescentIn build l [])) ∧
    (∀ x ∈ [(Instr.enable, Life.disabled), (.disable, .idle), (.startFrame, .idle), (.endFrame, .frameOpen), (.writeRow 2, .frameOpen)],
      ∀ p ∈ phasesOf x.1.opcode, Consistent (standing build x.1 x.2 p 1 [feeding 1])) := by
  constructor
  · intro l hl
    exact consistent_of_check (by revert l; decide)
  · intro x hx p hp
    exact consistent_of_check (by revert p x; decide)

/-- Steps for the statements about `step s = next t`: one with a bus event that takes a byte, one with a pin event that completes, one of ENABLE's
event, a reset edge, and one without an event. -/
theorem witness_steps :
    (let s := standing build (.writeRow 2) .frameOpen .wrData 1 [feeding 9]
     Consistent s ∧ s.cfg.ok = true ∧ s.input.rst = false ∧ s.busy = true ∧ s.takesByte = true ∧
       nextHas (step s) (fun t => t.evValid && t.busy) = true) ∧
    (let s := standing build .disable .idle .disDcdcHi 1 []
     Consistent s ∧ s.input.rst = false ∧ s.busy = true ∧ s.takesByte = false ∧
       nextHas (step s) (fun t => t.evValid && !t.busy && t.evSig == Line.dcdc.id && t.dcdc && !s.dcdc) = true) ∧
    (let s := standing build .enable .disabled .enDcdcLo 1 []
     Consistent s ∧ s.input.rst = false ∧ s.busy = true ∧
       nextHas (step s) (fun t => t.evValid && t.busy && t.evSig == Line.dcdc.id && !t.dcdc && s.dcdc) = true) ∧
    (let s := quiescentIn build .idle [resetting]
     s.input.rst = true ∧ nextHas (step s) (fun _ => true) = true) ∧
    (let s := quiescentIn build .idle []
     s.input.rst = false ∧ nextHas (step s) (fun t => !t.evValid) = true) := by
  refine ⟨⟨consistent_of_check (by decide), by decide⟩, ⟨consistent_of_check (by decide), by decide⟩,
    ⟨consistent_of_check (by decide), by decide⟩, by decide, by decide⟩

/-- FaultBitsAreSticky: each cause, and a block in which both bits are set already. -/
theorem witness_faultBits :
    (let s := quiescentIn build .idle [offering 0x00000006 0]
     s.input.rst = false ∧ s.takesCommand = true ∧ legalWord s.input.cmd = false ∧ nextHas (step s) (fun t => t.faultIllegal) = true) ∧
    (let s := quiescentIn build .idle [offering 0x00000001 0]
     s.input.rst = false ∧ s.takesCommand = true ∧ decode s.input.cmd = .cmd .enable ∧ nextHas (step s) (fun t => t.faultOrder) = true) ∧
    (let s : State := { quiescentIn build .idle [offering 0x00000003 0] with faultIllegal := true, faultOrder := true }
     nextHas (step s) (fun t => t.faultOrder && t.faultIllegal) = true) := by decide

/-- EventsAreAtLeastGapApart: an event, and the one edge after it that G = 2 keeps free. -/
theorem witness_gap :
    let s := standing build .startFrame .idle .sfOeHi 1 []
    nextHas (step s) (fun t => t.evValid && nextHas (run 1 t) (fun _ => true)) = true ∧ 1 < s.cfg.gap := by decide

/-- CkvLowPulseLastsExactlyHold, in START_FRAME and in WRITE_ROW. -/
theorem witness_ckvPulse :
    (let s := standing build .startFrame .idle .sfCkvLo 1 []
     Consistent s ∧ s.ckv = true ∧ ∃ t, step s = .next t ∧ t.ckv = false ∧ NoReset s.cfg.hold t) ∧
    (let s := standing build (.writeRow 1) .frameOpen .wrCkvLo 1 []
     Consistent s ∧ s.ckv = true ∧ ∃ t, step s = .next t ∧ t.ckv = false ∧ NoReset s.cfg.hold t) :=
  ⟨⟨consistent_of_check (by decide), rfl, _, rfl, rfl, noReset_of_all rfl _⟩,
   ⟨consistent_of_check (by decide), rfl, _, rfl, rfl, noReset_of_all rfl _⟩⟩

/-- NothingHappensDuringTheSettle, with a host that offers a command at every edge. -/
theorem witness_settle :
    let s := standing build .enable .disabled .enDcdcLo 1 (List.replicate 9 (offering 0x00000003 0))
    Consistent s ∧ s.phase = .enDcdcLo ∧
      ∃ t, step s = .next t ∧ t.evValid = true ∧ NoReset (s.cfg.settle + s.cfg.gap) t ∧
        nextHas (run 5 t) (fun _ => true) = true :=
  ⟨consistent_of_check (by decide), rfl, _, rfl, rfl, noReset_of_all rfl _, by decide⟩

/-- LifecycleAndFaultsDoNotSteer: a step at which the order check differs. -/
theorem witness_doesNotSteer :
    let s := quiescentIn build .idle [offering 0x00000003 0]
    nextHas (step s) (fun t => !t.faultOrder) = true ∧ nextHas (step { s with life := .disabled }) (fun t => t.faultOrder) = true := by
  decide

/-- InputsCountOnlyAtTheirHandshakes: every clause. -/
theorem witness_inputs :
    (let s := standing build (.writeRow 2) .frameOpen .wrData 0 [offering 0x00000001 5]
     s.takesCommand = false ∧ s.takesByte = false ∧ s.busy = true ∧ s.dinReady = false) ∧
    (quiescentIn build .idle [feeding 5]).takesCommand = false := by decide

/-- MissingByteHangsTheRow, for any number of edges; SaturatedCounterStillFires. -/
theorem witness_missingByte :
    let s := standing build (.writeRow 2) .frameOpen .wrData 3 []
    Consistent s ∧ s.cfg.ok = true ∧ s.busy = true ∧ s.phase = .wrData ∧ s.input.rst = false ∧ s.cnt = 2 ^ s.cfg.cntW - 1 ∧
    s.cfg.gap ≤ s.cnt + 1 ∧ (∀ k, NoReset k s ∧ ∀ j, j < k → (s.inputAt j).dinValid = false) ∧
    nextHas (step s) (fun t => t.busy && decide (t.phase = s.phase) && t.cnt == 3) = true :=
  ⟨consistent_of_check (by decide), by decide, rfl, rfl, rfl, rfl, by decide, fun k => ⟨noReset_of_all rfl k, fun j _ => rfl⟩, by decide⟩

-- ==== Runs and their observation ====

/-- Reset, then DISABLE in Disabled (V-W5 with G = 2), then nothing offered. -/
def disableRun : State := State.resetOf build [resetting, offering 0x00000002 0, feeding 0]

/-- R124: not ended while busy; at the end the trace, whose edge 0 is the reset edge, and the final registers. -/
theorem test_observation :
    disableRun.observation 3 = none ∧
    disableRun.observation 4 = some
      { trace := [(3, Line.dcdc.event true)], lines := (State.resetOf build []).lines, life := .disabled, faultIllegal := false,
        faultOrder := true } := by decide

/-- RunIsObservedAtItsEnd: a run from a reset edge, its three cases and its end, after which nothing resets. -/
theorem witness_observation :
    RunStart disableRun ∧ nextHas (run 2 disableRun) (fun t => t.busy) = true ∧
    nextHas (run 1 disableRun) (fun t => t.inputs.any (·.cmdValid)) = true ∧
    ∃ t, run 4 disableRun = .next t ∧ t.busy = false ∧ (∀ e ∈ t.inputs, e.cmdValid = false) ∧
      (disableRun.observation 4).isSome = true ∧ ∀ j, NoReset j t :=
  ⟨by decide, by decide, by decide, _, rfl, rfl, by decide, by decide,
   fun j => noReset_of_all rfl j⟩

/-- RunThatWaitsForAByteDoesNotEnd, for any number of edges: the row of a run of no edge, and that of a run of four edges (G = 2) from its offer. -/
theorem witness_runThatWaits :
    (let t := standing build (.writeRow 2) .frameOpen .wrData 1 []
     Consistent t ∧ t.cfg.ok = true ∧ run 0 t = .next t ∧ t.phase = .wrData ∧
       ∀ j, NoReset j t ∧ ∀ i, i < j → (t.inputAt i).dinValid = false) ∧
    (let s := quiescentIn build .frameOpen [offering 0x00020005 0]
     ∃ t, run 4 s = .next t ∧ Consistent t ∧ t.cfg.ok = true ∧ t.phase = .wrData ∧
       ∀ j, NoReset j t ∧ ∀ i, i < j → (t.inputAt i).dinValid = false) :=
  ⟨⟨consistent_of_check (by decide), by decide, rfl, rfl, fun j => ⟨noReset_of_all rfl j, fun _ _ => rfl⟩⟩,
   ⟨_, rfl, consistent_of_check (by decide), by decide, rfl, fun j => ⟨noReset_of_all rfl j, fun _ _ => rfl⟩⟩⟩

end Sys2Proof.Tests
end

section
/-! The build parameters (00_scope.md R8 to R10): what the ceiling and the counter width say, and when a step is refused. -/

namespace Sys2Proof

/-- The cycle count is the ceiling of the exact quotient (R9). -/
theorem cyclesFor_isCeiling (ns hz : Nat) :
    ns * hz ≤ cyclesFor ns hz * 1000000000 ∧ cyclesFor ns hz * 1000000000 < ns * hz + 1000000000 := by
  unfold cyclesFor
  omega

/-- A time and a frequency that are not 0 take at least one cycle. -/
theorem cyclesFor_pos {ns hz : Nat} (hns : 1 ≤ ns) (hhz : 1 ≤ hz) : 1 ≤ cyclesFor ns hz := by
  have hprod : 1 ≤ ns * hz := Nat.mul_pos hns hhz
  have hceil := (cyclesFor_isCeiling ns hz).1
  omega

/-- The width for n is the least one whose counter reaches n (R8). -/
theorem widthFor_le_iff (n w : Nat) : widthFor n ≤ w ↔ n ≤ 2 ^ w - 1 := by
  have hpow : 0 < 2 ^ w := Nat.two_pow_pos w
  unfold widthFor
  split
  next hzero => simp [hzero]
  next hpos => rw [Nat.succ_le_iff, Nat.log2_lt hpos]; omega

/-- The constraints of R10, as propositions. -/
theorem Config.ok_iff (c : Config) : c.ok = true ↔
    1 ≤ c.fClkHz ∧ 1 ≤ c.gap ∧ 1 ≤ c.tCkvLowNs ∧ 1 ≤ c.tDcdcSettleNs ∧ c.longestWait ≤ counterMax c.cntW ∧ c.sizeW = 16 := by
  simp [Config.ok, and_assoc]

namespace Machine

/-- An edge of a command in execution is refused by no name: it fires, holds, or is stuck at a stray phase. -/
theorem sequencerEdge_ne_refused (op : Opcode) (row : Option PhaseRow) (s : State) (r : Refusal) : sequencerEdge op row s ≠ .refused r := by
  cases row <;> simp [sequencerEdge]

/-- No meaning refuses. -/
theorem exec_ne_refused (i : Instr) (s : State) (r : Refusal) : exec i s ≠ .refused r := by
  cases hb : s.busy with
  | false => simp [exec_of_quiescent i s hb]
  | true => rw [exec_of_busy i s hb]; exact sequencerEdge_ne_refused _ _ s r

/-- The registers' part of an edge refuses nothing. -/
theorem edgeEffect_ne_refused (s : State) (r : Refusal) : edgeEffect s ≠ .refused r := by
  unfold edgeEffect
  split
  · simp
  split
  · unfold continueCommand
    split
    · simp
    · exact exec_ne_refused _ s r
  split
  · unfold offered
    split
    · simp
    · exact exec_ne_refused _ s r
  · simp

/-- Taking an input refuses nothing of its own. -/
theorem advance_eq_refused {o : Outcome} {r : Refusal} : advance o = .refused r ↔ o = .refused r := by
  cases o <;> simp [advance]

/-- A step is refused exactly for build parameters that may not be built, and by that name (log 9). -/
theorem step_eq_refused_iff (s : State) (r : Refusal) : step s = .refused r ↔ s.cfg.ok = false ∧ r = .invalidConfig := by
  unfold step clockEdge
  cases s.cfg.ok with
  | false => simp [eq_comm]
  | true => simp [advance_eq_refused, edgeEffect_ne_refused]

end Machine

/-- Settles O7: both counts are `cyclesFor`, a ceiling; H is at least C. -/
theorem cycleCountsAreCeilings : Obligations.CycleCountsAreCeilings := by
  unfold Obligations.CycleCountsAreCeilings
  refine ⟨cyclesFor_isCeiling, fun c => ⟨rfl, rfl, rfl, ?_, (cyclesFor_isCeiling _ _).1⟩⟩
  calc c.tCkvLowNs * c.fClkHz ≤ c.ckvLow * 1000000000 := (cyclesFor_isCeiling _ _).1
    _ ≤ c.hold * 1000000000 := Nat.mul_le_mul_right _ (le_max_right _ _)

/-- Settles O8: by the constraints read as propositions, and by the one refusal a step has. -/
theorem illegalConfigurationIsRefused : Obligations.IllegalConfigurationIsRefused := by
  unfold Obligations.IllegalConfigurationIsRefused
  refine ⟨Config.ok_iff, fun c hok => ?_, fun s hbad => ?_, fun s hok => ?_⟩
  · obtain ⟨hclk, -, hckv, hdcdc, -⟩ := c.ok_iff.mp hok
    exact ⟨cyclesFor_pos hckv hclk, cyclesFor_pos hdcdc hclk⟩
  · exact (Machine.step_eq_refused_iff s _).mpr ⟨hbad, rfl⟩
  · simp [Machine.step_eq_refused_iff, hok]

/-- Settles O9: the default is `widthFor` of the longest wait, which is the least width by `widthFor_le_iff`. -/
theorem defaultCounterWidthIsSmallest : Obligations.DefaultCounterWidthIsSmallest := by
  unfold Obligations.DefaultCounterWidthIsSmallest
  have hleast : ∀ c : Config, c.longestWait ≤ 2 ^ c.minCntW - 1 ∧ ∀ w : Nat, c.longestWait ≤ 2 ^ w - 1 → c.minCntW ≤ w := fun c =>
    ⟨(widthFor_le_iff _ _).mp le_rfl, fun w => (widthFor_le_iff _ w).mpr⟩
  exact ⟨hleast, fun hz g ckv dcdc => ⟨rfl, hleast { fClkHz := hz, gap := g, tCkvLowNs := ckv, tDcdcSettleNs := dcdc }⟩,
    fun _ => ⟨rfl, rfl, rfl, rfl⟩⟩

end Sys2Proof
end

section
/-! A command's events, whatever the host's timing (00_scope.md R14): what is still to come at each phase, and one edge against it. -/

namespace Sys2Proof

/-- The decoder reads back every encoded command (30_encoding.md R93). -/
theorem decode_encode (i : Instr) : decode (encode i) = .cmd i := by
  rw [decode_of_opcode (encode_rsvField i) (encode_opField i), encode_sizeField]
  cases i <;> rfl

namespace Machine

/-- The events of a command that stands at a phase, given the bytes still to be taken: the rest of its event sequence (R14, R115). -/
def eventsFrom (p : Phase) (bytes : List Byte) : List Event :=
  let rowBytes := bytes.flatMap fun b => [busEvent b, Line.cl.event true, Line.cl.event false]
  match p with
  | .idle => []
  | .enDcdcLo => eventSequence .enable []
  | .enSettle => []
  | .disDcdcHi => eventSequence .disable []
  | .sfOeHi => eventSequence .startFrame []
  | .sfModeHi => (eventSequence .startFrame []).drop 1
  | .sfSpvLo => (eventSequence .startFrame []).drop 2
  | .sfCkvLo => (eventSequence .startFrame []).drop 3
  | .sfCkvHi => (eventSequence .startFrame []).drop 4
  | .sfSpvHi => (eventSequence .startFrame []).drop 5
  | .efModeLo => eventSequence .endFrame []
  | .efOeLo => (eventSequence .endFrame []).drop 1
  | .wrStlLo => Line.stl.event false :: rowBytes ++ rowTail
  | .wrData => rowBytes ++ rowTail
  | .wrClHi => Line.cl.event true :: Line.cl.event false :: rowBytes ++ rowTail
  | .wrClLo => Line.cl.event false :: rowBytes ++ rowTail
  | .wrStlHi => rowTail
  | .wrXclHi => rowTail.drop 1
  | .wrXclLo => rowTail.drop 2
  | .wrLeHi => rowTail.drop 3
  | .wrLeLo => rowTail.drop 4
  | .wrCkvLo => rowTail.drop 5
  | .wrCkvHi => rowTail.drop 6

/-- How many bytes a command in execution has still to take (R161). -/
def State.bytesLeft (s : State) : Nat :=
  match s.phase with
  | .wrStlLo => s.size.toNat
  | .wrData => s.size.toNat - s.idx.toNat
  | .wrClHi | .wrClLo => s.size.toNat - s.idx.toNat - 1
  | _ => 0

/-- What counting bytes needs of the sequencer's registers: a part of `SequencerInv` that acceptance establishes from any state. -/
structure RowProgress (s : State) : Prop where
  idle_of_done : s.busy = false → s.phase = .idle
  idx_start : s.phase = .wrStlLo → s.idx = 0
  idx_loop : s.phase ∈ [.wrData, .wrClHi, .wrClLo] → s.idx.toNat < s.size.toNat

/-- The byte taken at the next edge, as a list (R72). -/
def State.byteNow (s : State) : List Byte := if s.takesByte then [s.input.din] else []

/-- The event of an action, given the byte on the stream (R115, R190). -/
def Action.events (a : Action) (din : Byte) : List Event :=
  match a with
  | .pinWrite sig b => [sig.event b]
  | .busWriteStream => [busEvent din]
  | .wait => []

theorem eventsFrom_firstPhase (i : Instr) (bytes : List Byte) : eventsFrom (firstPhase i.opcode) bytes = eventSequence i bytes := by
  cases i <;> rfl

@[simp] theorem lastEvent_nextEdge (s : State) : s.nextEdge.lastEvent = s.lastEvent := rfl

@[simp] theorem bytesLeft_nextEdge (s : State) : s.nextEdge.bytesLeft = s.bytesLeft := rfl

/-- A phase that fires shows the event of its action. -/
theorem lastEvent_fire (op : Opcode) (r : PhaseRow) (s : State) :
    (fire op r s).lastEvent.toList = r.action.events s.input.din := by
  unfold State.lastEvent
  rw [fire_evValid, fire_evSig, fire_evVal]
  cases r.action <;> simp [perform, Action.events, Line.event, busEvent, State.streamRead]

theorem bytesTaken_succ {s t : State} (k : Nat) (h : step s = .next t) : bytesTaken (k + 1) s = s.byteNow ++ bytesTaken k t := by
  simp [bytesTaken, h, State.byteNow]

/-- Acceptance starts a row with no byte shifted, whatever the block held before (R113). -/
theorem RowProgress.of_accept (i : Instr) (s : State) : RowProgress (accept i.opcode i.size (firstPhase i.opcode) s).nextEdge := by
  refine ⟨by simp, by simp, fun hloop => ?_⟩
  cases i <;> simp [firstPhase, Instr.opcode] at hloop

theorem bytesLeft_accept (i : Instr) (s : State) :
    (accept i.opcode i.size (firstPhase i.opcode) s).bytesLeft = i.size.toNat := by
  cases i <;> simp [State.bytesLeft, firstPhase, Instr.opcode, Instr.size]

/-- One edge against the events and bytes still to come: those of the state before are those of the edge and then those of the state after. -/
structure EdgeAccount (s t : State) : Prop where
  progress : RowProgress t
  bytes : s.bytesLeft = s.byteNow.length + t.bytesLeft
  events : ∀ bs : List Byte, bs.length = t.bytesLeft →
    eventsFrom s.phase (s.byteNow ++ bs) = t.lastEvent.toList ++ eventsFrom t.phase bs

/-- A busy block without a reset takes a byte exactly where WR_DATA fires (R114). -/
theorem byteNow_of_row {s : State} {i : Instr} {r : PhaseRow} (hr : s.input.rst = false) (hb : s.busy = true) (hrow : rowOf i s = some r) :
    s.byteNow = if s.phase = .wrData ∧ s.fires r = true then [s.input.din] else [] := by
  by_cases hp : s.phase = .wrData
  · have hreq : r.req = s.cfg.gap := by
      cases i <;> simp [rowOf, enableRow, disableRow, startFrameRow, endFrameRow, writeRowRow, hp] at hrow
      simp [← hrow]
    simp [State.byteNow, State.takesByte, State.dinReady, State.fires, hr, hb, hp, hreq, and_comm]
  · simp [State.byteNow, State.takesByte, State.dinReady, hp]

/-- A held edge takes no byte, shows no event and stays at its phase (R112, R164). -/
theorem edgeAccount_hold {s : State} {i : Instr} {r : PhaseRow} (hr : s.input.rst = false) (hb : s.busy = true) (hrow : rowOf i s = some r)
    (hp : RowProgress s) (hf : s.fires r = false) : EdgeAccount s (hold s).nextEdge := by
  have hbyte : s.byteNow = [] := by simp [byteNow_of_row hr hb hrow, hf]
  obtain ⟨hdone, hstart, hloop⟩ := hp
  refine ⟨⟨hdone, hstart, hloop⟩, ?_, fun bs _ => ?_⟩
  · simp [hbyte, State.bytesLeft]
  · simp [hbyte, State.lastEvent]

/-- The phases at which a row still has bytes to take or a CL pulse of the byte loop to finish (R161). -/
abbrev byteLoopPhases : List Phase := [.wrStlLo, .wrData, .wrClHi, .wrClLo]

/-- Outside the byte loop no byte is to come. -/
theorem bytesLeft_of_not_mem {s : State} (hp : s.phase ∉ byteLoopPhases) : s.bytesLeft = 0 := by
  cases hph : s.phase <;> simp [hph, State.bytesLeft] at hp ⊢

/-- Outside the byte loop a phase gives the next event of the sequence, and the byte loop is not entered again (R115). -/
theorem events_of_row_straight {i : Instr} {s : State} {r : PhaseRow} (hrow : rowOf i s = some r)
    (hp : s.phase ∉ byteLoopPhases) (din : Byte) :
    r.next.getD .idle ∉ byteLoopPhases ∧ eventsFrom s.phase [] = r.action.events din ++ eventsFrom (r.next.getD .idle) [] := by
  cases i <;> cases hph : s.phase <;>
    simp [rowOf, enableRow, disableRow, startFrameRow, endFrameRow, writeRowRow, hph] at hrow hp <;> subst hrow <;>
    exact ⟨by simp, rfl⟩

/-- In the byte loop the row is one of WRITE_ROW's. -/
theorem rowOf_of_byteLoop {i : Instr} {s : State} {r : PhaseRow} (hrow : rowOf i s = some r) (hp : s.phase ∈ byteLoopPhases) :
    writeRowRow s = some r := by
  cases i with
  | writeRow n => exact hrow
  | _ =>
    have hphases := (rowOf_isSome _ s).mp (by rw [hrow]; rfl)
    cases hph : s.phase <;> simp [hph, Instr.opcode, phasesOf] at hp hphases

/-- A firing phase outside the byte loop. -/
theorem edgeAccount_fire_straight {s : State} {i : Instr} {r : PhaseRow} (hr : s.input.rst = false) (hb : s.busy = true)
    (hrow : rowOf i s = some r) (hp : s.phase ∉ byteLoopPhases) : EdgeAccount s (fire i.opcode r s).nextEdge := by
  obtain ⟨hnext, hevents⟩ := events_of_row_straight hrow hp s.input.din
  have hleft : (fire i.opcode r s).bytesLeft = 0 := bytesLeft_of_not_mem (by simpa using hnext)
  have hbyte : s.byteNow = [] := by
    rw [byteNow_of_row hr hb hrow, if_neg]
    rintro ⟨hdata, -⟩
    simp [hdata] at hp
  refine ⟨⟨fun hdone => ?_, fun hstart => ?_, fun hloop => ?_⟩, ?_, fun bs hbs => ?_⟩
  · cases hn : r.next <;> simp [hn, hb] at hdone ⊢
  · simp at hstart; simp [hstart] at hnext
  · simp at hloop hnext; tauto
  · simp [hbyte, hleft, bytesLeft_of_not_mem hp]
  · obtain rfl : bs = [] := by simpa [hleft] using hbs
    simpa [hbyte, lastEvent_fire] using hevents

/-- A firing phase of the byte loop: STL falls before all bytes, and each byte gives its bus event and one CL pulse (R161). -/
theorem edgeAccount_fire_byteLoop {s : State} {i : Instr} {r : PhaseRow} (hr : s.input.rst = false) (hb : s.busy = true)
    (hrow : rowOf i s = some r) (hp : RowProgress s) (hf : s.fires r = true) (hmem : s.phase ∈ byteLoopPhases) :
    EdgeAccount s (fire i.opcode r s).nextEdge := by
  have hbyte := byteNow_of_row hr hb hrow
  have hwrite := rowOf_of_byteLoop hrow hmem
  obtain ⟨-, hstart, hloop⟩ := hp
  cases hph : s.phase <;> simp [hph] at hmem <;>
    simp [writeRowRow, hph] at hwrite <;> subst hwrite <;> simp [hph, hf] at hbyte hstart hloop
  case wrStlLo =>
    by_cases hz : s.size = 0#16
    · refine ⟨⟨by simp [hb], by simp [hz], by simp [hz]⟩, ?_, fun bs hbs => ?_⟩
      · simp [hbyte, State.bytesLeft, hph, hz]
      · obtain rfl : bs = [] := by simpa [State.bytesLeft, hz] using hbs
        simp [hbyte, lastEvent_fire, hph, eventsFrom, Action.events, hz]
    · refine ⟨⟨by simp [hb], by simp [hz], by simp [hz, hph, hstart]; bv_omega⟩, ?_, fun bs _ => ?_⟩
      · simp [hbyte, State.bytesLeft, hph, hz, hstart]
      · simp [hbyte, lastEvent_fire, hph, eventsFrom, Action.events, hz]
  case wrData =>
    refine ⟨⟨by simp [hb], by simp, by simp [hph, hloop]⟩, ?_, fun bs _ => ?_⟩
    · simp [hbyte, State.bytesLeft, hph]; omega
    · simp [hbyte, lastEvent_fire, hph, eventsFrom, Action.events]
  case wrClHi =>
    refine ⟨⟨by simp [hb], by simp, by simp [hph, hloop]⟩, ?_, fun bs _ => ?_⟩
    · simp [hbyte, State.bytesLeft, hph]
    · simp [hbyte, lastEvent_fire, hph, eventsFrom, Action.events]
  case wrClLo =>
    by_cases hmore : s.idx.toNat + 1 < s.size.toNat
    · refine ⟨⟨by simp [hb], by simp [hmore], by simp [hmore, hph]; omega⟩, ?_, fun bs _ => ?_⟩
      · simp [hbyte, State.bytesLeft, hph, hmore]; omega
      · simp [hbyte, lastEvent_fire, hph, eventsFrom, Action.events, hmore]
    · refine ⟨⟨by simp [hb], by simp [hmore], by simp [hmore]⟩, ?_, fun bs hbs => ?_⟩
      · simp [hbyte, State.bytesLeft, hph, hmore]; omega
      · obtain rfl : bs = [] := by simpa [State.bytesLeft, hmore] using hbs
        simp [hbyte, lastEvent_fire, hph, eventsFrom, Action.events, hmore]

/-- One edge of a command in execution accounts for its events and its bytes. -/
theorem edgeAccount_step {s t : State} (hr : s.input.rst = false) (hb : s.busy = true) (hp : RowProgress s) (h : step s = .next t) :
    EdgeAccount s t := by
  obtain ⟨-, ⟨hrst, -⟩ | ⟨-, hidle, -⟩ | ⟨-, hidle, -⟩ | ⟨-, hidle, -⟩ | ⟨-, -, i, r, -, hrow, ⟨hf, rfl⟩ | ⟨hf, rfl⟩⟩⟩ := step_next h
  · simp [hr] at hrst
  · simp [hb] at hidle
  · simp [hb] at hidle
  · simp [hb] at hidle
  · by_cases hmem : s.phase ∈ byteLoopPhases
    · exact edgeAccount_fire_byteLoop hr hb hrow hp hf hmem
    · exact edgeAccount_fire_straight hr hb hrow hmem
  · exact edgeAccount_hold hr hb hrow hp hf

/-- A command in execution that is completed by the last of k edges: its events and bytes in them are all that were still to come. -/
theorem events_of_completed {s u : State} {k : Nat} (e : Nat) (hp : RowProgress s) (hn : NoReset k s)
    (hbusy : ∀ j, j < k → ∃ t, run j s = .next t ∧ t.busy = true) (hrun : run k s = .next u) (hu : u.busy = false) :
    (traceFrom e k s).map Prod.snd = eventsFrom s.phase (bytesTaken k s) ∧ (bytesTaken k s).length = s.bytesLeft := by
  induction k generalizing s e with
  | zero =>
    obtain rfl : s = u := by simpa using hrun
    have hidle : s.phase = .idle := hp.idle_of_done hu
    simp [traceFrom, bytesTaken, eventsFrom, State.bytesLeft, hidle]
  | succ k ih =>
    have hb : s.busy = true := by simpa using hbusy 0 (by omega)
    cases hs : step s with
    | fault r => simp [run, hs] at hrun
    | refused r => simp [run, hs] at hrun
    | next t =>
      obtain ⟨hrst, hnt⟩ := (noReset_succ hs).mp hn
      obtain ⟨hpt, hbytes, hevents⟩ := edgeAccount_step hrst hb hp hs
      have hbusyt : ∀ j, j < k → ∃ v, run j t = .next v ∧ v.busy = true := fun j hj => by
        rw [← run_succ j hs]; exact hbusy (j + 1) (by omega)
      obtain ⟨htrace, hlen⟩ := ih (e + 1) hpt hnt hbusyt (by rwa [run_succ k hs] at hrun)
      rw [traceFrom_succ e k hs, bytesTaken_succ k hs]
      constructor
      · simpa [htrace, Function.comp_def] using (hevents _ hlen).symm
      · rw [List.length_append, hlen, hbytes]

/-- Settles O32: acceptance leaves the whole sequence to come, and every later edge accounts for its part of it. -/
theorem eventsFollowTheEventSequence : Obligations.EventsFollowTheEventSequence := by
  unfold Obligations.EventsFollowTheEventSequence
  intro s u i k hoff hn hbusy hrun hu
  have haccept := step_of_offered hoff.ok hoff.noRst hoff.ready hoff.valid (hoff.word ▸ decode_encode i)
  have hbyte : s.byteNow = [] := by simp [State.byteNow, State.takesByte, State.dinReady, hoff.ready]
  have hbusyt : ∀ j, j < k →
      ∃ v, run j (accept i.opcode i.size (firstPhase i.opcode) s).nextEdge = .next v ∧ v.busy = true := fun j hj => by
    rw [← run_succ j haccept]; exact hbusy (j + 1) (by omega) (by omega)
  obtain ⟨htrace, hlen⟩ := events_of_completed 1 (.of_accept i s) ((noReset_succ haccept).mp hn).2 hbusyt
    (by rwa [run_succ k haccept] at hrun) hu
  rw [State.trace, traceFrom_succ 0 k haccept, bytesTaken_succ k haccept, hbyte, List.nil_append]
  constructor
  · simpa [State.lastEvent, eventsFrom_firstPhase] using htrace
  · simpa [bytesLeft_accept] using hlen

end Machine
end Sys2Proof
end

section
/-! A firing phase against PHASE_TABLE (40_sequencer.md R115): what every row keeps, a firing phase keeps. -/

namespace Sys2Proof.Machine

/-- `allowed` as the five pairs of R42. -/
theorem allowed_iff (l : Life) (o : Opcode) : allowed l o = true ↔ (l, o) ∈
    [(Life.disabled, Opcode.enable), (.idle, .disable), (.idle, .startFrame), (.frameOpen, .writeRow), (.frameOpen, .endFrame)] := by
  cases l <;> cases o <;> decide

/-- Settles O45: `allowed` is a table of fifteen entries. -/
theorem contractTransitionsAreFive : Obligations.ContractTransitionsAreFive := by
  unfold Obligations.ContractTransitionsAreFive
  exact allowed_iff

/-- The phases that the `next` column can name, IDLE standing for DONE (R115, R117). -/
def After.targets : After → List Phase
  | .go p => [p]
  | .byEmptyRow => [.wrStlHi, .wrData]
  | .byMoreBytes => [.wrData, .wrStlHi]
  | .done => [.idle]

theorem After.target_mem_targets (a : After) (s : State) : (a.target s).getD .idle ∈ a.targets := by
  cases a with
  | go p => simp [After.target, After.targets]
  | byEmptyRow => by_cases h : s.size.toNat = 0 <;> simp [After.target, After.targets, h]
  | byMoreBytes => by_cases h : s.idx.toNat + 1 < s.size.toNat <;> simp [After.target, After.targets, h]
  | done => simp [After.target, After.targets]

/-- A row at which a command stands is the row of PHASE_TABLE for its phase. -/
theorem rowOf_eq_table {i : Instr} {s : State} {r : PhaseRow} (hrow : rowOf i s = some r) :
    ∃ e ∈ phaseTable, e.phase = s.phase ∧ r = { action := e.action, req := e.wait.edges s.cfg, next := e.after.target s } := by
  cases i <;> cases hp : s.phase <;>
    simp [rowOf, enableRow, disableRow, startFrameRow, endFrameRow, writeRowRow, hp] at hrow <;> subst hrow <;>
    simp [phaseTable, Wait.edges, After.target, ← BitVec.toNat_inj]

theorem phase_mem_of_row {i : Instr} {s : State} {r : PhaseRow} (hrow : rowOf i s = some r) : s.phase ∈ phasesOf i.opcode :=
  (rowOf_isSome i s).mp (by simp [hrow])

/-- No command has IDLE as a phase (R44). -/
theorem idle_not_mem_phasesOf (o : Opcode) : Phase.idle ∉ phasesOf o := by
  cases o <;> decide

/-- The phase after a row is one of the same command (R115). -/
theorem next_mem_phasesOf {i : Instr} {s : State} {r : PhaseRow} {p : Phase} (hrow : rowOf i s = some r) (hnext : r.next = some p) :
    p ∈ phasesOf i.opcode := by
  obtain ⟨e, he, hphase, rfl⟩ := rowOf_eq_table hrow
  have htable : ∀ o, ∀ e ∈ phaseTable, e.phase ∈ phasesOf o → e.after ≠ .done → ∀ p ∈ e.after.targets, p ∈ phasesOf o := by
    intro o; cases o <;> decide
  have htarget : e.after.target s = some p := hnext
  have hdone : e.after ≠ .done := fun hd => by simp [hd, After.target] at htarget
  exact htable _ e he (hphase ▸ phase_mem_of_row hrow) hdone p (by simpa [htarget] using e.after.target_mem_targets s)

/-- A firing phase leaves the block in IDLE exactly at completion. -/
theorem fire_phase_eq_idle {i : Instr} {s : State} {r : PhaseRow} (hrow : rowOf i s = some r) :
    (fire i.opcode r s).phase = .idle ↔ r.next = none := by
  rw [fire_phase]
  cases hnext : r.next with
  | none => simp
  | some p =>
    have hp := next_mem_phasesOf hrow hnext
    simpa using fun hidle : p = .idle => idle_not_mem_phasesOf _ (hidle ▸ hp)

/-- The level of a line after an action, from its level before. -/
def Action.level (a : Action) (sig : Line) (b : Bool) : Bool :=
  match a with
  | .pinWrite sig' v => if sig = sig' then v else b
  | .busWriteStream => b
  | .wait => b

theorem line_fire (op : Opcode) (r : PhaseRow) (s : State) (sig : Line) :
    (fire op r s).line sig = r.action.level sig (s.line sig) := by
  have hperform : (fire op r s).line sig = (perform r.action s).line sig := by
    unfold fire; cases r.next <;> cases sig <;> rfl
  rw [hperform]
  cases r.action with
  | pinWrite sig' b => exact s.line_setLine sig' sig b
  | busWriteStream => cases sig <;> rfl
  | wait => cases sig <;> rfl

/-- A relation between the phase, the lifecycle state and one line that the rows of the command keep is kept by a firing phase; at
completion `life` follows its table (R117, R121). -/
theorem phaseLifeLine_fire {i : Instr} {s : State} {r : PhaseRow} (hrow : rowOf i s = some r) (sig : Line)
    (R : Phase → Life → Bool → Prop)
    (htable : ∀ e ∈ phaseTable, e.phase ∈ phasesOf i.opcode → ∀ p ∈ e.after.targets, ∀ b, R e.phase s.life b →
      R p (if p = .idle then nextLife s.life i.opcode else s.life) (e.action.level sig b))
    (hR : R s.phase s.life (s.line sig)) :
    R (fire i.opcode r s).phase (fire i.opcode r s).life ((fire i.opcode r s).line sig) := by
  simp only [line_fire, fire_life, ← fire_phase_eq_idle hrow]
  have hmem := phase_mem_of_row hrow
  obtain ⟨e, he, hphase, rfl⟩ := rowOf_eq_table hrow
  rw [← hphase] at hR hmem
  exact htable e he hmem _ (by simpa using e.after.target_mem_targets s) _ hR

/-- A relation between the phase and one line that every row keeps is kept by a firing phase. -/
theorem phaseLine_fire {i : Instr} {s : State} {r : PhaseRow} (hrow : rowOf i s = some r) (sig : Line) (R : Phase → Bool → Prop)
    (htable : ∀ e ∈ phaseTable, ∀ p ∈ e.after.targets, ∀ b, R e.phase b → R p (e.action.level sig b))
    (hR : R s.phase (s.line sig)) : R (fire i.opcode r s).phase ((fire i.opcode r s).line sig) :=
  phaseLifeLine_fire hrow sig (fun p _ b => R p b) (fun e he _ => htable e he) hR

end Sys2Proof.Machine
end

section
/-! The invariant of all reachable states: it holds at reset, and every kind of edge keeps it. -/

namespace Sys2Proof.Machine

/-- The phases of a row's tail (R162). -/
abbrev tailPhases : List Phase := [.wrStlHi, .wrXclHi, .wrXclLo, .wrLeHi, .wrLeLo, .wrCkvLo, .wrCkvHi]

/-- How a row enters its tail: empty, or with its last byte shifted (R161). -/
theorem row_into_tail {i : Instr} {s : State} {r : PhaseRow} (hrow : rowOf i s = some r) (htail : r.next.getD .idle ∈ tailPhases) :
    s.phase ∈ tailPhases ∨ (s.phase = .wrStlLo ∧ s.size = 0) ∨ (s.phase = .wrClLo ∧ s.size.toNat ≤ s.idx.toNat + 1) := by
  cases i <;> cases hp : s.phase <;>
    simp [rowOf, enableRow, disableRow, startFrameRow, endFrameRow, writeRowRow, hp] at hrow <;> subst hrow <;>
    simp at htail ⊢
  case wrStlLo => split at htail <;> simp_all
  case wrClLo => split at htail <;> simp_all

theorem SequencerInv.rowProgress {s : State} (h : SequencerInv s) : RowProgress s :=
  ⟨h.idle_iff.mpr, h.idx_start, h.idx_loop⟩

/-- A firing phase keeps the sequencer's part; that a row's bytes progress is known of every step (`edgeAccount_step`). -/
theorem SequencerInv.fire {i : Instr} {s : State} {r : PhaseRow} (h : SequencerInv s) (hb : s.busy = true)
    (hrun : s.running = some i) (hrow : rowOf i s = some r) (hprogress : RowProgress (fire i.opcode r s)) :
    SequencerInv (fire i.opcode r s) where
  cnt_fits := by simp
  idle_iff := by rw [fire_phase_eq_idle hrow, fire_busy, hb]; cases r.next <;> simp
  phase_of_op hbusy := by
    refine ⟨i.opcode, by simpa using running_eq_some hrun, ?_⟩
    cases hnext : r.next with
    | none => simp [hnext] at hbusy
    | some p => simpa [hnext] using next_mem_phasesOf hrow hnext
  size_zero := by simpa using h.size_zero
  idx_le := by
    have hle := h.idx_le
    rw [fire_idx, fire_size]
    split
    next hp => have hlt := h.idx_loop (by simp [hp]); bv_omega
    next => exact hle
  idx_start := hprogress.idx_start
  idx_loop := hprogress.idx_loop
  idx_tail htail := by
    rw [fire_idx, fire_size]
    obtain hp | ⟨hp, hsize⟩ | ⟨hp, hlast⟩ := row_into_tail hrow (by simpa using htail)
    · rw [if_neg (fun hcl => by simp [hcl] at hp)]
      exact h.idx_tail hp
    · simp [hp, h.idx_start hp, hsize]
    · have hlt := h.idx_loop (by simp [hp])
      rw [if_pos hp]
      bv_omega

theorem PulseInv.fire {i : Instr} {s : State} {r : PhaseRow} (h : PulseInv s) (hrow : rowOf i s = some r) :
    PulseInv (fire i.opcode r s) where
  spv_low := phaseLine_fire hrow .spv (fun p b => b = false ↔ p ∈ [Phase.sfCkvLo, .sfCkvHi, .sfSpvHi]) (by decide) h.spv_low
  ckv_low := phaseLine_fire hrow .ckv (fun p b => b = false ↔ p ∈ [Phase.sfCkvHi, .wrCkvHi]) (by decide) h.ckv_low
  stl_low := phaseLine_fire hrow .stl (fun p b => b = false ↔ p ∈ [Phase.wrData, .wrClHi, .wrClLo, .wrStlHi]) (by decide) h.stl_low
  cl_high hpad :=
    phaseLine_fire hrow .cl (fun p b => b = true ↔ p ∈ [Phase.wrClLo, .wrXclLo]) (by decide) (h.cl_high (by simpa using hpad))
  le_high hpad := phaseLine_fire hrow .le (fun p b => b = true ↔ p = .wrLeLo) (by decide) (h.le_high (by simpa using hpad))

/-- DCDC against the phase and the lifecycle state (R140, R192). -/
abbrev DcdcAgrees (p : Phase) (l : Life) (dcdc : Bool) : Prop :=
  (p = .enSettle → dcdc = false) ∧ (p ≠ .enSettle → (l = .disabled ↔ dcdc = true))

/-- OE is high from its rise in START_FRAME to the end of the frame (R151, R155). -/
abbrev OeAgrees (p : Phase) (l : Life) (oe : Bool) : Prop :=
  (p ∈ [.sfModeHi, .sfSpvLo, .sfCkvLo, .sfCkvHi, .sfSpvHi] → oe = true) ∧ (l = .frameOpen → oe = true)

/-- MODE is high from its rise in START_FRAME to its fall in END_FRAME (R151, R155). -/
abbrev ModeAgrees (p : Phase) (l : Life) (mode : Bool) : Prop :=
  (p ∈ [.sfSpvLo, .sfCkvLo, .sfCkvHi, .sfSpvHi] → mode = true) ∧ (l = .frameOpen → p ≠ .efOeLo → mode = true) ∧
  (p = .efOeLo → mode = false)

/-- A line is low outside a frame and its setup (R150, R153). -/
abbrev LowOutside (p : Phase) (l : Life) (b : Bool) : Prop :=
  l ≠ .frameOpen → p ∉ [.sfModeHi, .sfSpvLo, .sfCkvLo, .sfCkvHi, .sfSpvHi] → b = false

/-- A command in execution that raised no fault is a contract transition (R42, R122). -/
def InOrder (s : State) : Prop :=
  s.busy = true → s.faultOrder = false → ∃ o, Opcode.ofBits s.op = some o ∧ allowed s.life o = true

/-- `LifecycleInv` line by line. -/
theorem lifecycleInv_iff (s : State) : LifecycleInv s ↔
    DcdcAgrees s.phase s.life s.dcdc ∧ OeAgrees s.phase s.life s.oe ∧ ModeAgrees s.phase s.life s.mode ∧ InOrder s ∧
    (s.faultOrder = false → s.cfg.SpecPads → LowOutside s.phase s.life s.oe ∧ LowOutside s.phase s.life s.mode) := by
  constructor
  · rintro ⟨hsettle, hlife, hoeSetup, hmodeSetup, hoe, hmode, hend, horder, hlow⟩
    exact ⟨⟨hsettle, hlife⟩, ⟨hoeSetup, hoe⟩, ⟨hmodeSetup, hmode, hend⟩, horder, fun hf hpads =>
      ⟨fun hl hp => (hlow hf hpads hl hp).1, fun hl hp => (hlow hf hpads hl hp).2⟩⟩
  · rintro ⟨⟨hsettle, hlife⟩, ⟨hoeSetup, hoe⟩, ⟨hmodeSetup, hmode, hend⟩, horder, hlow⟩
    exact ⟨hsettle, hlife, hoeSetup, hmodeSetup, hoe, hmode, hend, horder, fun hf hpads hl hp =>
      ⟨(hlow hf hpads).1 hl hp, (hlow hf hpads).2 hl hp⟩⟩

/-- OE and MODE stay low outside a frame and its setup where the command is a contract transition; END_FRAME has lowered MODE before it
lowers OE and completes. -/
theorem lowOutside_fire {i : Instr} {s : State} {r : PhaseRow} {sig : Line} (hrow : rowOf i s = some r)
    (hallowed : allowed s.life i.opcode = true) (hsig : sig = .oe ∨ sig = .mode)
    (hend : sig = .mode → s.phase = .efOeLo → s.line sig = false) (hlow : LowOutside s.phase s.life (s.line sig)) :
    LowOutside (fire i.opcode r s).phase (fire i.opcode r s).life ((fire i.opcode r s).line sig) := by
  have hfive := (allowed_iff s.life i.opcode).mp hallowed
  simp only [List.mem_cons, Prod.mk.injEq, List.not_mem_nil, or_false] at hfive
  refine (phaseLifeLine_fire hrow sig (fun p l b => (sig = .mode → p = .efOeLo → b = false) ∧ LowOutside p l b) ?_ ⟨hend, hlow⟩).2
  obtain rfl | rfl := hsig <;>
    obtain ⟨hl, ho⟩ | ⟨hl, ho⟩ | ⟨hl, ho⟩ | ⟨hl, ho⟩ | ⟨hl, ho⟩ := hfive <;> rw [hl, ho] <;> decide

theorem LifecycleInv.fire {i : Instr} {s : State} {r : PhaseRow} (h : LifecycleInv s) (hb : s.busy = true)
    (hrun : s.running = some i) (hrow : rowOf i s = some r) : LifecycleInv (fire i.opcode r s) := by
  obtain ⟨hdcdc, hoe, ⟨hmodeSetup, hmodeFrame, hmodeEnd⟩, horder, hlow⟩ := (lifecycleInv_iff s).mp h
  have hop := running_eq_some hrun
  have hallowed : s.faultOrder = false → allowed s.life i.opcode = true := fun hf => by
    obtain ⟨o, ho, hal⟩ := horder hb hf
    rwa [← Option.some.inj (hop.symm.trans ho)] at hal
  refine (lifecycleInv_iff _).mpr ⟨?_, ?_, ?_, fun hbusy hf => ?_, fun hf hpads => ?_⟩
  · exact phaseLifeLine_fire hrow .dcdc DcdcAgrees (by cases s.life <;> cases i.opcode <;> decide) hdcdc
  · exact phaseLifeLine_fire hrow .oe OeAgrees (by cases s.life <;> cases i.opcode <;> decide) hoe
  · exact phaseLifeLine_fire hrow .mode ModeAgrees (by cases s.life <;> cases i.opcode <;> decide) ⟨hmodeSetup, hmodeFrame, hmodeEnd⟩
  · have hnext : r.next ≠ none := fun hdone => by simp [hdone] at hbusy
    exact ⟨i.opcode, by simpa using hop, by simpa [hnext] using hallowed (by simpa using hf)⟩
  · rw [fire_faultOrder] at hf
    obtain ⟨hoeLow, hmodeLow⟩ := hlow hf (by simpa using hpads)
    exact ⟨lowOutside_fire hrow (hallowed hf) (.inl rfl) (by simp) hoeLow,
      lowOutside_fire hrow (hallowed hf) (.inr rfl) (fun _ => hmodeEnd) hmodeLow⟩

theorem Consistent.fire {i : Instr} {s : State} {r : PhaseRow} (h : Consistent s) (hb : s.busy = true)
    (hrun : s.running = some i) (hrow : rowOf i s = some r) (hprogress : RowProgress (fire i.opcode r s)) :
    Consistent (fire i.opcode r s) :=
  ⟨h.sequencer.fire hb hrun hrow hprogress, h.pulses.fire hrow, h.lifecycle.fire hb hrun hrow⟩

/-- The counter of a holding phase stays in its range, and nothing else that the invariant reads changes (R112, R120). -/
theorem Consistent.hold {s : State} (h : Consistent s) : Consistent (hold s) := by
  obtain ⟨⟨_, hidle, hop, hsize, hle, hstart, hloop, htail⟩, ⟨⟩, ⟨⟩⟩ := h
  refine ⟨⟨Nat.min_le_right _ _, hidle, hop, hsize, hle, hstart, hloop, htail⟩, ?_, ?_⟩ <;> constructor <;> assumption

theorem Consistent.illegalEdge {s : State} (h : Consistent s) : Consistent (illegalEdge s) := by
  obtain ⟨⟨⟩, ⟨⟩, ⟨⟩⟩ := h
  refine ⟨?_, ?_, ?_⟩ <;> constructor <;> assumption

theorem SequencerInv.of_accept (i : Instr) (s : State) : SequencerInv (accept i.opcode i.size (firstPhase i.opcode) s) := by
  cases i <;> constructor <;> simp [Instr.opcode, Instr.size, firstPhase, phasesOf]

theorem PulseInv.accept {s : State} (h : PulseInv s) (hidle : s.phase = .idle) (i : Instr) :
    PulseInv (accept i.opcode i.size (firstPhase i.opcode) s) := by
  have hspv : s.spv = true := by simpa [hidle] using h.spv_low
  have hckv : s.ckv = true := by simpa [hidle] using h.ckv_low
  have hstl : s.stl = true := by simpa [hidle] using h.stl_low
  have hcl : s.cfg.padCl = false → s.cl = false := by simpa [hidle] using h.cl_high
  have hle : s.cfg.padLe = false → s.le = false := by simpa [hidle] using h.le_high
  cases i <;> constructor <;> simpa [Instr.opcode, firstPhase]

/-- The order check records what is no contract transition, so a command without a fault is one (R122). -/
theorem LifecycleInv.accept {s : State} (h : LifecycleInv s) (hidle : s.phase = .idle) (i : Instr) :
    LifecycleInv (accept i.opcode i.size (firstPhase i.opcode) s) := by
  obtain ⟨hdcdc, hoe, hmode, -, hlow⟩ := (lifecycleInv_iff s).mp h
  rw [hidle] at hdcdc hoe hmode hlow
  refine (lifecycleInv_iff _).mpr ?_
  simp only [accept_phase, accept_life, accept_dcdc, accept_oe, accept_mode, accept_cfg, accept_faultOrder, Bool.or_eq_false_iff]
  refine ⟨?_, ?_, ?_, fun _ hf => ?_, fun hf hpads => ?_⟩
  · cases i <;> simpa [Instr.opcode, firstPhase, DcdcAgrees] using hdcdc
  · cases i <;> simpa [Instr.opcode, firstPhase, OeAgrees] using hoe
  · cases i <;> simpa [Instr.opcode, firstPhase, ModeAgrees] using hmode
  · simp only [accept_faultOrder, Bool.or_eq_false_iff, Bool.not_eq_false'] at hf
    exact ⟨i.opcode, by simp, by simpa using hf.2⟩
  · cases i <;> simpa [Instr.opcode, firstPhase, LowOutside] using hlow hf.1 hpads

theorem Consistent.accept {s : State} (h : Consistent s) (hb : s.busy = false) (i : Instr) :
    Consistent (accept i.opcode i.size (firstPhase i.opcode) s) :=
  have hidle : s.phase = .idle := h.sequencer.idle_iff.mpr hb
  ⟨.of_accept i s, h.pulses.accept hidle i, h.lifecycle.accept hidle i⟩

theorem Consistent.resetOf (c : Config) (inputs : List EdgeInput) : Consistent (State.resetOf c inputs) := by
  refine ⟨?_, ?_, ?_⟩ <;> constructor <;> simp [State.resetOf]
  case refine_3.low_outside => exact fun hmode hoe _ _ _ => ⟨hoe, hmode⟩

/-- Settles O35: both are reset states. -/
theorem resetStateSatisfiesTheInvariant : Obligations.ResetStateSatisfiesTheInvariant := by
  unfold Obligations.ResetStateSatisfiesTheInvariant
  exact ⟨.resetOf _ _, .resetOf⟩

/-- Settles O36: by the cases of a step, each of which keeps the invariant. -/
theorem everyStepKeepsTheInvariant : Obligations.EveryStepKeepsTheInvariant := by
  unfold Obligations.EveryStepKeepsTheInvariant
  intro s t h hstep
  obtain ⟨-, ⟨-, rfl⟩ | ⟨-, -, -, rfl⟩ | ⟨-, -, -, _, -, rfl⟩ | ⟨-, hb, -, i, -, rfl⟩ |
    ⟨hr, hb, i, r, hrun, hrow, ⟨-, rfl⟩ | ⟨-, rfl⟩⟩⟩ := step_next hstep
  · exact .resetOf _ _
  · exact h.noEvent.nextEdge
  · exact h.illegalEdge.nextEdge
  · exact (h.accept hb i).nextEdge
  · obtain ⟨hdone, hstart, hloop⟩ := (edgeAccount_step hr hb h.sequencer.rowProgress hstep).progress
    exact (h.fire hb hrun hrow ⟨hdone, hstart, hloop⟩).nextEdge
  · exact h.hold.nextEdge

end Sys2Proof.Machine
end

section
/-! What else every edge does to the state: the fault bits, the data bus, and what neither `life` nor the faults steer. -/

namespace Sys2Proof.Machine

/-- Settles O25: a stuck phase is one at which the command has no row. -/
theorem strayPhaseIsStuck : Obligations.StrayPhaseIsStuck := by
  unfold Obligations.StrayPhaseIsStuck
  intro i s hb
  rw [exec_of_busy i s hb, ← rowOf_isSome]
  cases rowOf i s <;> simp [sequencerEdge]

/-- Settles O43: only an illegal word accepted and a forbidden command accepted set a bit; the other edges keep both. -/
theorem faultBitsAreSticky : Obligations.FaultBitsAreSticky := by
  unfold Obligations.FaultBitsAreSticky
  intro s t hstep
  simp only [← allowed_iff, State.takesCommand, State.cmdReady]
  obtain ⟨-, ⟨hr, rfl⟩ | ⟨hr, hb, hv, rfl⟩ | ⟨hr, hb, hv, why, hd, rfl⟩ | ⟨hr, hb, hv, i, hd, rfl⟩ |
    ⟨hr, hb, i, r, -, -, ⟨-, rfl⟩ | ⟨-, rfl⟩⟩⟩ := step_next hstep
  · simp [hr, State.resetOf]
  · simp [hr, hv]
  · simp [hr, hb, hv, hd, legalWord]
  · simp [hr, hb, hv, hd, legalWord]
  · simp [hr, hb]
  · simp [hr, hb]

/-- A busy block without a reset takes a byte exactly where WR_DATA fires (R72, R114). -/
theorem takesByte_of_row {s : State} {i : Instr} {r : PhaseRow} (hr : s.input.rst = false) (hb : s.busy = true)
    (hrow : rowOf i s = some r) : s.takesByte = true ↔ s.phase = .wrData ∧ s.fires r = true := by
  have hbyte := byteNow_of_row hr hb hrow
  by_cases hfires : s.phase = .wrData ∧ s.fires r = true
  · simpa [State.byteNow, hfires] using hbyte
  · simpa [State.byteNow, hfires] using hbyte

/-- A quiescent block takes no byte. -/
theorem takesByte_of_quiescent {s : State} (hb : s.busy = false) : s.takesByte = false := by
  simp [State.takesByte, State.dinReady, hb]

/-- Of all rows only WR_DATA's writes the bus (R115). -/
theorem busWrite_iff_of_row {i : Instr} {s : State} {r : PhaseRow} (hrow : rowOf i s = some r) :
    r.action = .busWriteStream ↔ s.phase = .wrData := by
  obtain ⟨e, he, hphase, rfl⟩ := rowOf_eq_table hrow
  have htable : ∀ e ∈ phaseTable, e.action = .busWriteStream ↔ e.phase = .wrData := by decide
  exact hphase ▸ htable e he

theorem perform_d (a : Action) (s : State) : (perform a s).d = if a = .busWriteStream then s.input.din else s.d := by
  cases a <;> simp [perform, State.streamRead]

/-- Settles O48: the bus is written only where WR_DATA fires, which is where a byte is taken. -/
theorem dataBusKeepsTheLastByte : Obligations.DataBusKeepsTheLastByte := by
  unfold Obligations.DataBusKeepsTheLastByte
  intro s t hrst hstep
  obtain ⟨-, ⟨hr, -⟩ | ⟨-, hb, -, rfl⟩ | ⟨-, hb, -, _, -, rfl⟩ | ⟨-, hb, -, i, -, rfl⟩ |
    ⟨hr, hb, i, r, -, hrow, ⟨hf, rfl⟩ | ⟨hf, rfl⟩⟩⟩ := step_next hstep
  · simp [hrst] at hr
  · simp [takesByte_of_quiescent hb]
  · simp [takesByte_of_quiescent hb]
  · simp [takesByte_of_quiescent hb]
  · simp [takesByte_of_row hr hb hrow, fire_d, perform_d, busWrite_iff_of_row hrow, hf]
  · simp [takesByte_of_row hr hb hrow, hf]

/-- Acceptance as one record update, the order check included (R113, R122). -/
theorem accept_eq (op : Opcode) (n : BitVec 16) (p : Phase) (s : State) :
    accept op n p s = { s with
      evValid := false, faultOrder := s.faultOrder || !allowed s.life op, busy := true, op := op.bits, size := n, idx := 0, cnt := 0,
      phase := p } := by
  cases h : allowed s.life op <;> simp [accept, checkOrder, raiseFault, State.noEvent, h]

/-- The state with other values of `life` and the two fault bits. -/
def State.withLifeFaults (s : State) (l : Life) (fi fo : Bool) : State := { s with life := l, faultIllegal := fi, faultOrder := fo }

section

variable (s : State) (l : Life) (fi fo : Bool)

theorem withLifeFaults_fires (r : PhaseRow) : (s.withLifeFaults l fi fo).fires r = s.fires r := rfl

theorem rowOf_withLifeFaults (i : Instr) : rowOf i (s.withLifeFaults l fi fo) = rowOf i s := by
  cases i <;> rfl

theorem accept_withLifeFaults (op : Opcode) (n : BitVec 16) (p : Phase) :
    accept op n p (s.withLifeFaults l fi fo) = (accept op n p s).withLifeFaults l fi (fo || !allowed l op) := by
  rw [accept_eq, accept_eq]
  rfl

theorem perform_withLifeFaults (a : Action) : perform a (s.withLifeFaults l fi fo) = (perform a s).withLifeFaults l fi fo := by
  cases a with
  | pinWrite sig b => cases sig <;> rfl
  | busWriteStream => rfl
  | wait => rfl

theorem fire_withLifeFaults (op : Opcode) (r : PhaseRow) :
    fire op r (s.withLifeFaults l fi fo) = (fire op r s).withLifeFaults (if r.next = none then nextLife l op else l) fi fo := by
  unfold fire
  rw [perform_withLifeFaults]
  cases r.next <;> rfl

end

theorem step_of_reset {s : State} (hok : s.cfg.ok = true) (hr : s.input.rst = true) :
    step s = .next (State.resetOf s.cfg s.inputs.tail) := by
  simp [step, clockEdge, hok, edgeEffect, hr, advance, resetEdge, State.nextEdge, State.resetOf]

theorem step_of_quiet {s : State} (hok : s.cfg.ok = true) (hr : s.input.rst = false) (hb : s.busy = false)
    (hv : s.input.cmdValid = false) : step s = .next s.noEvent.nextEdge := by
  simp [step, clockEdge, hok, edgeEffect, hr, hb, hv, advance, idleEdge]

theorem step_of_illegal {s : State} {why : IllegalReason} (hok : s.cfg.ok = true) (hr : s.input.rst = false) (hb : s.busy = false)
    (hv : s.input.cmdValid = true) (hd : decode s.input.cmd = .illegal why) : step s = .next (illegalEdge s).nextEdge := by
  simp [step, clockEdge, hok, edgeEffect, hr, hb, hv, offered, hd, advance]

/-- Settles O46: other values pass through every kind of edge, since no condition of the step reads what it changes. -/
theorem lifecycleAndFaultsDoNotSteer : Obligations.LifecycleAndFaultsDoNotSteer := by
  unfold Obligations.LifecycleAndFaultsDoNotSteer
  intro s t l fi fo hstep
  suffices h : ∃ l' fi' fo', step (s.withLifeFaults l fi fo) = .next (t.withLifeFaults l' fi' fo') from h
  obtain ⟨hok, ⟨hr, rfl⟩ | ⟨hr, hb, hv, rfl⟩ | ⟨hr, hb, hv, why, hd, rfl⟩ | ⟨hr, hb, hv, i, hd, rfl⟩ |
    ⟨hr, hb, i, r, hrun, hrow, ⟨hf, rfl⟩ | ⟨hf, rfl⟩⟩⟩ := step_next hstep
  · exact ⟨_, _, _, step_of_reset (s := s.withLifeFaults l fi fo) hok hr⟩
  · exact ⟨l, fi, fo, step_of_quiet (s := s.withLifeFaults l fi fo) hok hr hb hv⟩
  · exact ⟨l, true, fo, step_of_illegal (s := s.withLifeFaults l fi fo) hok hr hb hv hd⟩
  · refine ⟨l, fi, fo || !allowed l i.opcode, ?_⟩
    rw [step_of_offered (s := s.withLifeFaults l fi fo) hok hr hb hv hd, accept_withLifeFaults]
    rfl
  · refine ⟨if r.next = none then nextLife l i.opcode else l, fi, fo, ?_⟩
    rw [step_of_busy (s := s.withLifeFaults l fi fo) hok hr hb hrun ((rowOf_withLifeFaults ..).trans hrow),
      withLifeFaults_fires, if_pos hf, fire_withLifeFaults]
    rfl
  · refine ⟨l, fi, fo, ?_⟩
    rw [step_of_busy (s := s.withLifeFaults l fi fo) hok hr hb hrun ((rowOf_withLifeFaults ..).trans hrow),
      withLifeFaults_fires, if_neg (by simp [hf])]
    rfl

end Sys2Proof.Machine
end

section
/-! The trace port against the nine lines (20_memory.md R79; 60_exceptions.md R190): every edge without reset is silent or shows its one
change. -/

namespace Sys2Proof.Machine

/-- No pin event at the edge from s to t: the lines, `ev_sig` and `ev_val` stay (R190). -/
structure SilentEdge (s t : State) : Prop where
  valid : t.evValid = false
  lines : t.lines = s.lines
  sig : t.evSig = s.evSig
  val : t.evVal = s.evVal

/-- One pin event at the edge from s to t: the line or the bus that `ev_sig` names takes the value `ev_val` (R79, R190). -/
structure EventEdge (s t : State) : Prop where
  valid : t.evValid = true
  change : (t.evSig = busId ∧ t.lines = { s.lines with d := t.evVal }) ∨
    ∃ (sig : Line) (b : Bool), t.evSig = sig.id ∧ t.evVal = zext8 b ∧ t.lines = (s.setLine sig b).lines

/-- No scalar line has an id above 8 or the one of the bus (R191). -/
theorem Line.id_ne_busId (sig : Line) : sig.id.toNat < 9 ∧ sig.id ≠ busId := by
  cases sig <;> decide

@[simp] theorem State.nextEdge_lines (s : State) : s.nextEdge.lines = s.lines := rfl

/-- Only EN_SETTLE's wait is silent; every other action is one event (R110, R115). -/
theorem silent_or_event_perform (a : Action) (s : State) : SilentEdge s (perform a s) ∨ EventEdge s (perform a s) := by
  cases a with
  | pinWrite sig b => exact .inr ⟨rfl, .inr ⟨sig, b, rfl, rfl, rfl⟩⟩
  | busWriteStream => exact .inr ⟨rfl, .inl ⟨rfl, rfl⟩⟩
  | wait => exact .inl ⟨rfl, rfl, rfl, rfl⟩

/-- Beside its action a firing phase writes no line and nothing of the trace port (R112, R117). -/
theorem silent_or_event_fire (op : Opcode) (r : PhaseRow) (s : State) :
    SilentEdge s (fire op r s).nextEdge ∨ EventEdge s (fire op r s).nextEdge := by
  obtain hsilent | hevent := silent_or_event_perform r.action s
  · exact .inl ⟨(fire_evValid op r s).trans hsilent.valid, (fire_lines op r s).trans hsilent.lines,
      (fire_evSig op r s).trans hsilent.sig, (fire_evVal op r s).trans hsilent.val⟩
  · refine .inr ⟨(fire_evValid op r s).trans hevent.valid, ?_⟩
    simpa only [State.nextEdge_lines, State.nextEdge_evSig, State.nextEdge_evVal, fire_lines, fire_evSig, fire_evVal] using hevent.change

theorem step_silent_or_event {s t : State} (hrst : s.input.rst = false) (h : step s = .next t) : SilentEdge s t ∨ EventEdge s t := by
  obtain ⟨-, ⟨hr, -⟩ | ⟨-, -, -, rfl⟩ | ⟨-, -, -, _, -, rfl⟩ | ⟨-, -, -, i, -, rfl⟩ |
    ⟨-, -, i, r, -, -, ⟨-, rfl⟩ | ⟨-, rfl⟩⟩⟩ := step_next h
  · simp [hrst] at hr
  · exact .inl ⟨rfl, rfl, rfl, rfl⟩
  · exact .inl ⟨rfl, rfl, rfl, rfl⟩
  · rw [accept_eq]
    exact .inl ⟨rfl, rfl, rfl, rfl⟩
  · exact silent_or_event_fire i.opcode r s
  · exact .inl ⟨rfl, rfl, rfl, rfl⟩

/-- Settles O39: an edge without reset is silent or shows its one change, and `ev_valid` says which of the two. -/
theorem tracePortTellsTheOneChange : Obligations.TracePortTellsTheOneChange := by
  unfold Obligations.TracePortTellsTheOneChange
  intro s t hstep
  refine ⟨fun hrst => ?_, fun hrst hvalid => ?_, fun hrst hvalid => ?_, Line.id_ne_busId⟩
  · obtain ⟨hok, -⟩ := step_next hstep
    rw [step_of_reset hok hrst] at hstep
    cases hstep
    rfl
  · obtain hsilent | hevent := step_silent_or_event hrst hstep
    · exact ⟨hsilent.lines, hsilent.sig, hsilent.val⟩
    · simp [hevent.valid] at hvalid
  · obtain hsilent | hevent := step_silent_or_event hrst hstep
    · simp [hsilent.valid] at hvalid
    · exact hevent.change

end Sys2Proof.Machine
end

section
/-! The encoding (30_encoding.md R90 to R98): a word decodes to a command exactly when its three fields are that command's, so the legal words
are the words of the commands. -/

namespace Sys2Proof

theorem Opcode.bits_injective : Function.Injective Opcode.bits := fun o p h => by
  simpa using congrArg Opcode.ofBits h

/-- Every assigned opcode is that of a command (R92). -/
theorem Opcode.exists_instr (o : Opcode) : ∃ i : Instr, i.opcode = o := by
  cases o with
  | enable => exact ⟨.enable, rfl⟩
  | disable => exact ⟨.disable, rfl⟩
  | startFrame => exact ⟨.startFrame, rfl⟩
  | endFrame => exact ⟨.endFrame, rfl⟩
  | writeRow => exact ⟨.writeRow 0, rfl⟩

/-- Only WRITE_ROW carries a size (R97). -/
theorem Instr.size_of_opcode_ne {i : Instr} (h : i.opcode ≠ .writeRow) : i.size = 0 := by
  cases i with
  | writeRow n => exact absurd rfl h
  | _ => rfl

theorem noOperand_eq_cmd {n : BitVec 16} {i j : Instr} : noOperand n i = .cmd j ↔ n = 0 ∧ i = j := by
  unfold noOperand
  split
  next hn => simp [hn]
  next hn => exact ⟨nofun, fun h => absurd h.1 hn⟩

/-- A legal word shows its command's fields (R93). -/
theorem fields_of_decode {w : Word} {i : Instr} (h : decode w = .cmd i) :
    w.opField = i.opcode.bits ∧ w.rsvField = 0 ∧ w.sizeField = i.size := by
  have hrsv : w.rsvField = 0 := by
    by_contra hne
    simp [decode_of_rsvField hne] at h
  cases ho : Opcode.ofBits w.opField with
  | none =>
    obtain ⟨why, hwhy⟩ := decode_of_reserved ho
    simp [hwhy] at h
  | some o =>
    obtain ⟨j, rfl⟩ := o.exists_instr
    have hop := Opcode.bits_of_ofBits ho
    rw [decode_of_opcode hrsv hop] at h
    cases j with
    | writeRow n =>
      cases h
      exact ⟨hop, hrsv, rfl⟩
    | _ =>
      obtain ⟨hsize, rfl⟩ := noOperand_eq_cmd.mp h
      exact ⟨hop, hrsv, hsize⟩

/-- A word with the fields of a command is that command's word. -/
theorem eq_encode_of_fields {w : Word} {i : Instr} (hop : w.opField = i.opcode.bits) (hrsv : w.rsvField = 0) (hsize : w.sizeField = i.size) :
    w = encode i :=
  Word.eq_of_fields (hop.trans (encode_opField i).symm) (hrsv.trans (encode_rsvField i).symm) (hsize.trans (encode_sizeField i).symm)

/-- Decoding and encoding are inverse to each other, on all words and all commands (R91 to R94). -/
theorem decode_eq_cmd_iff (w : Word) (i : Instr) : decode w = .cmd i ↔ w = encode i := by
  refine ⟨fun h => ?_, fun h => h ▸ decode_encode i⟩
  obtain ⟨hop, hrsv, hsize⟩ := fields_of_decode h
  exact eq_encode_of_fields hop hrsv hsize

/-- Settles O3: a word that decodes to i has the fields of i, which are those of the one word `encode i`. -/
theorem decodeAndEncodeAgree : Obligations.DecodeAndEncodeAgree := by
  unfold Obligations.DecodeAndEncodeAgree
  exact decode_eq_cmd_iff

/-- A word is illegal when its fields are those of no command. -/
theorem legalWord_eq_false_of_fields {w : Word}
    (h : ∀ i : Instr, w.opField = i.opcode.bits → w.rsvField = 0 → w.sizeField ≠ i.size) : legalWord w = false := by
  by_contra hlegal
  obtain ⟨i, hi⟩ := legalWord_eq_true.mp (by simpa using hlegal)
  obtain ⟨hop, hrsv, hsize⟩ := fields_of_decode hi
  exact h i hop hrsv hsize

/-- The opcodes that R92 assigns. -/
theorem Opcode.ofBits_eq_none_iff (b : BitVec 4) : Opcode.ofBits b = none ↔ b ∉ [0x1#4, 0x2#4, 0x3#4, 0x4#4, 0x5#4] := by
  revert b
  decide

/-- The reserved opcodes of R95 are those that R92 does not assign. -/
theorem Opcode.ofBits_of_reserved {b : BitVec 4} (h : b = 0x0#4 ∨ 0x6#4 ≤ b) : Opcode.ofBits b = none := by
  revert b
  decide

/-- A reserved opcode makes a word illegal (R95). -/
theorem legalWord_of_reserved {w : Word} (h : w.opField = 0x0#4 ∨ 0x6#4 ≤ w.opField) : legalWord w = false :=
  legalWord_eq_false.mpr (decode_of_reserved (Opcode.ofBits_of_reserved h))

/-- A size other than 0 makes a word illegal unless the opcode is WRITE_ROW's (R97). -/
theorem legalWord_of_sizeField {w : Word} (hop : w.opField ≠ Opcode.writeRow.bits) (hsize : w.sizeField ≠ 0) : legalWord w = false :=
  legalWord_eq_false_of_fields fun i hi _ hn => by
    have hne : i.opcode ≠ .writeRow := fun hw => hop (hi.trans (congrArg Opcode.bits hw))
    exact hsize (hn.trans (Instr.size_of_opcode_ne hne))

/-- The commands: the four without an operand, and WRITE_ROW of every size (R92). -/
def allCommands : Finset Instr :=
  {.enable, .disable, .startFrame, .endFrame} ∪ (Finset.range 65536).image fun n => .writeRow (BitVec.ofNat 16 n)

theorem mem_allCommands (i : Instr) : i ∈ allCommands := by
  cases i with
  | writeRow n =>
    refine Finset.mem_union_right _ (Finset.mem_image.mpr ⟨n.toNat, Finset.mem_range.mpr n.isLt, ?_⟩)
    rw [BitVec.ofNat_toNat, BitVec.setWidth_eq]
  | _ => exact Finset.mem_union_left _ (by simp)

theorem card_allCommands : allCommands.card = 65540 := by
  have hrows : ((Finset.range 65536).image fun n => Instr.writeRow (BitVec.ofNat 16 n)).card = 65536 := by
    rw [Finset.card_image_of_injOn, Finset.card_range]
    intro m hm n hn hmn
    have hmod := congrArg BitVec.toNat (Instr.writeRow.inj hmn)
    simp only [Finset.coe_range, Set.mem_Iio, BitVec.toNat_ofNat] at hm hn hmod
    omega
  have hdisjoint : Disjoint ({.enable, .disable, .startFrame, .endFrame} : Finset Instr)
      ((Finset.range 65536).image fun n => Instr.writeRow (BitVec.ofNat 16 n)) := by
    simp [Finset.disjoint_left]
  rw [allCommands, Finset.card_union_of_disjoint hdisjoint, hrows]
  rfl

theorem encode_injective : Function.Injective encode := fun i j h => by
  simpa [decode_encode] using congrArg decode h

/-- The legal words, as numbers, are the words of the commands (R93). -/
theorem legalWords_eq_image : (Finset.range (2 ^ 32)).filter (fun x => legalWord (BitVec.ofNat 32 x) = true) =
    allCommands.image fun i => (encode i).toNat := by
  ext x
  rw [Finset.mem_filter, Finset.mem_range, Finset.mem_image]
  constructor
  · rintro ⟨hx, hlegal⟩
    obtain ⟨i, hi⟩ := legalWord_eq_true.mp hlegal
    refine ⟨i, mem_allCommands i, ?_⟩
    rw [← (decode_eq_cmd_iff _ i).mp hi, BitVec.toNat_ofNat, Nat.mod_eq_of_lt hx]
  · rintro ⟨i, -, rfl⟩
    refine ⟨(encode i).isLt, legalWord_eq_true.mpr ⟨i, ?_⟩⟩
    rw [BitVec.ofNat_toNat, BitVec.setWidth_eq, decode_encode]

/-- Settles O2: each clause by the fields of the word, and the count by counting the commands, one word each. -/
theorem decoderIsTheRuleWith65540LegalWords : Obligations.DecoderIsTheRuleWith65540LegalWords := by
  unfold Obligations.DecoderIsTheRuleWith65540LegalWords
  refine ⟨fun w hrsv => ⟨_, decode_of_rsvField hrsv⟩, fun w hrsv hop => ?_, fun w i hi hrsv hop => ⟨fun hsize => ?_, fun hsize => ?_⟩,
    fun w hop => decode_of_reserved ((Opcode.ofBits_eq_none_iff _).mpr hop), ?_⟩
  · exact (decode_eq_cmd_iff _ _).mpr (eq_encode_of_fields hop hrsv rfl)
  · exact (decode_eq_cmd_iff _ _).mpr (eq_encode_of_fields hop hrsv (hsize.trans (Instr.size_of_opcode_ne hi).symm))
  · refine legalWord_eq_false.mp (legalWord_of_sizeField (fun hw => hi ?_) hsize)
    exact Opcode.bits_injective (hop.symm.trans hw)
  · rw [legalWords_eq_image, Finset.card_image_of_injective allCommands (fun _ _ h => encode_injective (BitVec.eq_of_toNat_eq h)), card_allCommands]

/-- Settles O1: the words of the table are those that `encode` gives. -/
theorem tableWordsDecodeToTheirCommands : Obligations.TableWordsDecodeToTheirCommands := by
  unfold Obligations.TableWordsDecodeToTheirCommands
  exact ⟨decode_encode .enable, decode_encode .disable, decode_encode .startFrame, decode_encode .endFrame,
    fun n => decode_encode (.writeRow n), fun _ => legalWord_of_reserved⟩

/-- Settles O4: an illegal word has the fields of no command. -/
theorem reservedWordsAreIllegal : Obligations.ReservedWordsAreIllegal := by
  unfold Obligations.ReservedWordsAreIllegal
  refine ⟨fun _ => legalWord_of_reserved, legalWord_of_reserved (.inl rfl),
    fun _ hrsv => legalWord_eq_false.mpr ⟨_, decode_of_rsvField hrsv⟩, fun w _ hop hsize => legalWord_of_sizeField (fun hw => ?_) hsize⟩
  rw [hw] at hop
  exact absurd hop (by decide)

end Sys2Proof
end

section
/-! The assembler (30_encoding.md R100, R101): expansions, and the words and stream bytes of a well-formed line. -/

namespace Sys2Proof

/-- Settles O5: `rowLines` is the table's list of WRITE_ROW lines, and a cycle is a frame between ENABLE and DISABLE. -/
theorem pseudoInstructionsExpand : Obligations.PseudoInstructionsExpand := by
  unfold Obligations.PseudoInstructionsExpand
  refine ⟨rfl, fun rows => rfl, fun rows => ?_⟩
  simp [AsmLine.expand]

theorem assemble_of_wellFormed {l : AsmLine} (h : l.wellFormed = true) :
    assemble l = some (l.expand.map fun c => (encode c.instr, c.stream)) := if_pos h

theorem assemble_of_not_wellFormed {l : AsmLine} (h : l.wellFormed = false) : assemble l = none := by
  simp [assemble, h]

/-- What the assembler accepts as `WRITE_ROW n, [...]` (R100). -/
theorem wellFormed_writeRow_iff (n : Nat) (bytes : List Nat) :
    (AsmCore.writeRow n bytes).wellFormed = true ↔ bytes.length = n ∧ n ≤ 65535 ∧ ∀ b ∈ bytes, b ≤ 255 := by
  simp [AsmCore.wellFormed, lengthAgrees, sizeFits, bytesFit, and_assoc]

/-- The WRITE_ROW lines of rows that fit are well formed: their lengths agree by themselves (R101). -/
theorem wellFormed_of_mem_rowLines {rows : List (List Nat)} (h : (rows.all fun r => sizeFits r.length && bytesFit r) = true) {c : AsmCore}
    (hc : c ∈ rowLines rows) : c.wellFormed = true := by
  obtain ⟨r, hr, rfl⟩ := List.mem_map.mp hc
  simpa [AsmCore.wellFormed, lengthAgrees] using List.all_eq_true.mp h r hr

/-- A well-formed line expands to well-formed command lines. -/
theorem wellFormed_of_mem_expand {l : AsmLine} (h : l.wellFormed = true) {c : AsmCore} (hc : c ∈ l.expand) : c.wellFormed = true := by
  cases l with
  | core c' =>
    obtain rfl := List.mem_singleton.mp hc
    exact h
  | writeRowEmpty =>
    obtain rfl := List.mem_singleton.mp hc
    rfl
  | frame rows =>
    simp only [AsmLine.expand, List.mem_append, List.mem_cons, List.not_mem_nil, or_false] at hc
    obtain (rfl | hrow) | rfl := hc
    · rfl
    · exact wellFormed_of_mem_rowLines h hrow
    · rfl
  | cycle rows =>
    simp only [AsmLine.expand, List.mem_append, List.mem_cons, List.not_mem_nil, or_false] at hc
    obtain (rfl | rfl | hrow) | rfl | rfl := hc
    · rfl
    · rfl
    · exact wellFormed_of_mem_rowLines h hrow
    · rfl
    · rfl

/-- The byte list written on a command line: that of WRITE_ROW (R100). -/
def AsmCore.writtenBytes : AsmCore → List Nat
  | .writeRow _ bytes => bytes
  | .enable => []
  | .disable => []
  | .startFrame => []
  | .endFrame => []

/-- The host feeds the bytes as written: none is cut to its width. -/
theorem stream_toNat {c : AsmCore} (h : c.wellFormed = true) : c.stream.map BitVec.toNat = c.writtenBytes := by
  cases c with
  | writeRow n bytes =>
    obtain ⟨-, -, hfit⟩ := (wellFormed_writeRow_iff n bytes).mp h
    rw [AsmCore.stream, AsmCore.writtenBytes, List.map_map]
    exact (List.map_congr_left fun b hb => Nat.mod_eq_of_lt (Nat.lt_succ_of_le (hfit b hb))).trans (List.map_id bytes)
  | _ => rfl

/-- A command takes as many bytes as its size says (R100). -/
theorem stream_length {c : AsmCore} (h : c.wellFormed = true) : c.stream.length = c.instr.size.toNat := by
  cases c with
  | writeRow n bytes =>
    obtain ⟨hlen, hn, -⟩ := (wellFormed_writeRow_iff n bytes).mp h
    rw [AsmCore.stream, List.length_map, hlen]
    exact (Nat.mod_eq_of_lt (Nat.lt_succ_of_le hn)).symm
  | _ => rfl

/-- Settles O6: the expansion of a well-formed line is well formed line by line, and each command line's word decodes back. -/
theorem assembledLinesDecodeBack : Obligations.AssembledLinesDecodeBack := by
  unfold Obligations.AssembledLinesDecodeBack
  refine ⟨fun _ => assemble_of_not_wellFormed, wellFormed_writeRow_iff, fun l hl => ⟨_, assemble_of_wellFormed hl, ?_, ?_, ?_⟩⟩
  · simp [Function.comp_def, decode_encode]
  · intro x hx i hi
    obtain ⟨c, hc, rfl⟩ := List.mem_map.mp hx
    obtain rfl : c.instr = i := by simpa [decode_encode] using hi
    exact stream_length (wellFormed_of_mem_expand hl hc)
  · rw [List.map_map]
    refine List.map_congr_left fun c hc => (stream_toNat (wellFormed_of_mem_expand hl hc)).trans ?_
    cases c <;> rfl

end Sys2Proof
end

section
/-! An illegal word (30_encoding.md R98; 60_exceptions.md R181): the exact state after the edge that consumes it. -/

namespace Sys2Proof.Machine

/-- Settles O13: the word decodes to a reason, and the edge that consumes it is `illegalEdge`. -/
theorem illegalWordOnlyRecordsItsFault : Obligations.IllegalWordOnlyRecordsItsFault := by
  unfold Obligations.IllegalWordOnlyRecordsItsFault
  intro s w hoff hillegal
  obtain ⟨why, hwhy⟩ := legalWord_eq_false.mp hillegal
  exact step_of_illegal hoff.ok hoff.noRst hoff.ready hoff.valid (hoff.word ▸ hwhy)

end Sys2Proof.Machine
end

section
/-! Acceptance and phases, command by command (40_sequencer.md R113 to R117): what a meaning does at a row that fires, at one that holds, and
what no row of the command writes. -/

namespace Sys2Proof.Machine

/-- The `wait` column of PHASE_TABLE (R115): G everywhere but in the settle wait and before CKV rises. -/
theorem wait_of_mem_phaseTable : ∀ e ∈ phaseTable, e.wait =
    if e.phase = .enSettle then .s else if e.phase = .sfCkvHi ∨ e.phase = .wrCkvHi then .h else .g := by
  decide

/-- The edges that a row needs (R115). -/
theorem req_of_row {i : Instr} {s : State} {r : PhaseRow} (hrow : rowOf i s = some r) :
    r.req = if s.phase = .enSettle then s.cfg.settle
      else if s.phase = .sfCkvHi ∨ s.phase = .wrCkvHi then s.cfg.hold else s.cfg.gap := by
  obtain ⟨e, he, hphase, rfl⟩ := rowOf_eq_table hrow
  rw [← hphase]
  simp only [wait_of_mem_phaseTable e he]
  split
  · rfl
  · split <;> rfl

section

variable {i : Instr} {s : State} {q : Nat} {p : Phase}

theorem exec_of_fires {r : PhaseRow} (hb : s.busy = true) (hrow : rowOf i s = some r) (hf : s.fires r = true) :
    exec i s = .next (fire i.opcode r s) := by
  simp [exec_of_busy i s hb, hrow, sequencerEdge, hf]

theorem exec_of_not_fires {r : PhaseRow} (hb : s.busy = true) (hrow : rowOf i s = some r) (hf : s.fires r = false) :
    exec i s = .next (hold s) := by
  simp [exec_of_busy i s hb, hrow, sequencerEdge, hf]

/-- Outside WR_DATA enough edges let a phase fire (R114). -/
theorem fires_of_req {r : PhaseRow} (hq : r.req ≤ s.cnt + 1) (hp : s.phase ≠ .wrData) : s.fires r = true := by
  simp [State.fires, hq, hp]

/-- A phase that writes a line and is not the command's last (R112, R115). -/
theorem exec_pinWrite_go (sig : Line) (b : Bool) (hb : s.busy = true) (hq : q ≤ s.cnt + 1) (hp : s.phase ∉ [.wrData, .wrClLo])
    (hrow : rowOf i s = some { action := .pinWrite sig b, req := q, next := some p }) :
    exec i s = .next { s.setLine sig b with evValid := true, evSig := sig.id, evVal := zext8 b, cnt := 0, phase := p } := by
  simp only [List.mem_cons, List.not_mem_nil, or_false, not_or] at hp
  rw [exec_of_fires hb hrow (fires_of_req hq hp.1)]
  rw [fire, if_neg hp.2]
  cases sig <;> rfl

/-- The last phase of a command, where it writes a line (R115, R117). -/
theorem exec_pinWrite_done (sig : Line) (b : Bool) (hb : s.busy = true) (hq : q ≤ s.cnt + 1) (hp : s.phase ∉ [.wrData, .wrClLo])
    (hrow : rowOf i s = some { action := .pinWrite sig b, req := q, next := none }) :
    exec i s = .next { s.setLine sig b with
      evValid := true, evSig := sig.id, evVal := zext8 b, cnt := 0, busy := false, phase := .idle, life := nextLife s.life i.opcode } := by
  simp only [List.mem_cons, List.not_mem_nil, or_false, not_or] at hp
  rw [exec_of_fires hb hrow (fires_of_req hq hp.1)]
  rw [fire, if_neg hp.2]
  cases sig <;> rfl

end

/-- Settles O18: acceptance is one record update (`accept_eq`), and each command is forbidden in all lifecycle states but one. -/
theorem acceptanceCapturesTheCommand : Obligations.AcceptanceCapturesTheCommand := by
  unfold Obligations.AcceptanceCapturesTheCommand
  intro s hb
  have hforbidden : ∀ l : Life, (!allowed l .enable) = decide (l ≠ .disabled) ∧ (!allowed l .disable) = decide (l ≠ .idle) ∧
      (!allowed l .startFrame) = decide (l ≠ .idle) ∧ (!allowed l .endFrame) = decide (l ≠ .frameOpen) ∧
      (!allowed l .writeRow) = decide (l ≠ .frameOpen) := by
    intro l; cases l <;> decide
  obtain ⟨henable, hdisable, hstart, hend, hrow⟩ := hforbidden s.life
  simp only [exec_of_quiescent _ s hb, accept_eq, Instr.opcode, henable, hdisable, hstart, hend, hrow]
  exact ⟨rfl, rfl, rfl, rfl, fun _ => rfl⟩

/-- Settles O19: DCDC falls, and the settle wait ends with completion and no event. -/
theorem enablePhasesFire : Obligations.EnablePhasesFire := by
  unfold Obligations.EnablePhasesFire
  intro s hb
  refine ⟨fun hp hq => ?_, fun hp hq => ?_⟩
  · exact exec_pinWrite_go (i := .enable) .dcdc false hb hq (by simp [hp]) (by simp [rowOf, enableRow, hp])
  · have hrow : rowOf .enable s = some { action := .wait, req := s.cfg.settle, next := none } := by simp [rowOf, enableRow, hp]
    have hlife : nextLife s.life .enable = if s.life = .disabled then .idle else s.life := by cases s.life <;> rfl
    rw [exec_of_fires hb hrow (fires_of_req hq (by simp [hp])), fire, if_neg (by simp [hp]), ← hlife]
    rfl

/-- Settles O20: the one row of DISABLE. -/
theorem disablePhaseFires : Obligations.DisablePhaseFires := by
  unfold Obligations.DisablePhaseFires
  intro s hb hp hq
  have hlife : nextLife s.life .disable = .disabled := by cases s.life <;> rfl
  rw [← hlife]
  exact exec_pinWrite_done (i := .disable) .dcdc true hb hq (by simp [hp]) (by simp [rowOf, disableRow, hp])

/-- Settles O21: row by row, the last with completion. -/
theorem startFramePhasesFire : Obligations.StartFramePhasesFire := by
  unfold Obligations.StartFramePhasesFire
  intro s hb
  have hlife : nextLife s.life .startFrame = if s.life = .idle then .frameOpen else s.life := by cases s.life <;> rfl
  rw [← hlife]
  refine ⟨fun hp hq => exec_pinWrite_go (i := .startFrame) .oe true hb hq ?_ ?_,
    fun hp hq => exec_pinWrite_go (i := .startFrame) .mode true hb hq ?_ ?_,
    fun hp hq => exec_pinWrite_go (i := .startFrame) .spv false hb hq ?_ ?_,
    fun hp hq => exec_pinWrite_go (i := .startFrame) .ckv false hb hq ?_ ?_,
    fun hp hq => exec_pinWrite_go (i := .startFrame) .ckv true hb hq ?_ ?_,
    fun hp hq => exec_pinWrite_done (i := .startFrame) .spv true hb hq ?_ ?_⟩ <;>
  simp [rowOf, startFrameRow, hp]

/-- Settles O22: MODE falls, then OE with completion. -/
theorem endFramePhasesFire : Obligations.EndFramePhasesFire := by
  unfold Obligations.EndFramePhasesFire
  intro s hb
  have hlife : nextLife s.life .endFrame = if s.life = .frameOpen then .idle else s.life := by cases s.life <;> rfl
  rw [← hlife]
  refine ⟨fun hp hq => exec_pinWrite_go (i := .endFrame) .mode false hb hq ?_ ?_,
    fun hp hq => exec_pinWrite_done (i := .endFrame) .oe false hb hq ?_ ?_⟩ <;>
  simp [rowOf, endFrameRow, hp]

/-- WR_DATA writes the bus with the byte on the stream (R115, R161). -/
theorem exec_wrData {n : BitVec 16} {s : State} (hb : s.busy = true) (hp : s.phase = .wrData) (hq : s.cfg.gap ≤ s.cnt + 1)
    (hv : s.input.dinValid = true) :
    exec (.writeRow n) s = .next { s with
      d := s.input.din, evValid := true, evSig := busId, evVal := s.input.din, cnt := 0, phase := .wrClHi } := by
  have hrow : rowOf (.writeRow n) s = some { action := .busWriteStream, req := s.cfg.gap, next := some .wrClHi } := by
    simp [rowOf, writeRowRow, hp]
  rw [exec_of_fires hb hrow (by simp [State.fires, hq, hv]), fire, if_neg (by simp [hp])]
  rfl

/-- WR_CL_LO ends the CL pulse of a byte and counts the byte (R112, R115, R161). -/
theorem exec_wrClLo {n : BitVec 16} {s : State} (hb : s.busy = true) (hp : s.phase = .wrClLo) (hq : s.cfg.gap ≤ s.cnt + 1) :
    exec (.writeRow n) s = .next { s with
      cl := false, evValid := true, evSig := Line.cl.id, evVal := zext8 false, cnt := 0, idx := s.idx + 1,
      phase := if s.idx.toNat + 1 < s.size.toNat then .wrData else .wrStlHi } := by
  have hrow : rowOf (.writeRow n) s = some {
      action := .pinWrite .cl false
      req := s.cfg.gap
      next := some (if s.idx.toNat + 1 < s.size.toNat then .wrData else .wrStlHi) } := by
    simp [rowOf, writeRowRow, hp]
  rw [exec_of_fires hb hrow (fires_of_req hq (by simp [hp])), fire, if_pos hp]
  rfl

/-- Settles O23: row by row; WR_DATA writes the bus, WR_CL_LO counts the byte, and the last row completes and keeps `life`. -/
theorem writeRowPhasesFire : Obligations.WriteRowPhasesFire := by
  unfold Obligations.WriteRowPhasesFire
  intro n s hb
  have hlife : nextLife s.life .writeRow = s.life := by cases s.life <;> rfl
  refine ⟨fun hp hq => exec_pinWrite_go .stl false hb hq ?_ ?_, fun hp hq hv => exec_wrData hb hp hq hv,
    fun hp hq => exec_pinWrite_go .cl true hb hq ?_ ?_, fun hp hq => exec_wrClLo hb hp hq,
    fun hp hq => exec_pinWrite_go .stl true hb hq ?_ ?_,
    fun hp hq => exec_pinWrite_go .cl true hb hq ?_ ?_,
    fun hp hq => exec_pinWrite_go .cl false hb hq ?_ ?_,
    fun hp hq => exec_pinWrite_go .le true hb hq ?_ ?_,
    fun hp hq => exec_pinWrite_go .le false hb hq ?_ ?_,
    fun hp hq => exec_pinWrite_go .ckv false hb hq ?_ ?_,
    fun hp hq => (exec_pinWrite_done .ckv true hb hq ?_ ?_).trans (by rw [Instr.opcode, hlife]; rfl)⟩ <;>
  simp [rowOf, writeRowRow, hp]

/-- Settles O24: whatever is missing, edges or a byte, the phase's row does not fire. -/
theorem phaseThatCannotFireHolds : Obligations.PhaseThatCannotFireHolds := by
  unfold Obligations.PhaseThatCannotFireHolds
  intro i s hb hmem hwait
  obtain ⟨r, hrow⟩ := Option.isSome_iff_exists.mp ((rowOf_isSome i s).mpr hmem)
  have hreq := req_of_row hrow
  have hf : s.fires r = false := by
    rw [State.fires, hreq]
    split at hwait
    next hp => simp [hp]; omega
    next hp =>
      rw [if_neg hp]
      split at hwait
      next hckv => simp [hckv]; omega
      next hckv =>
        rw [if_neg hckv]
        obtain hfew | ⟨hdata, hbyte⟩ := hwait
        · simp; omega
        · simp [hdata, hbyte]
  exact exec_of_not_fires hb hrow hf

/-- Of the nine lines only those that the rows of a command name may differ (R34, R115). -/
def KeepsOtherLines (o : Opcode) (a b : Lines) : Prop :=
  match o with
  | .enable => b = { a with dcdc := b.dcdc }
  | .disable => b = { a with dcdc := b.dcdc }
  | .startFrame => b = { a with oe := b.oe, mode := b.mode, spv := b.spv, ckv := b.ckv }
  | .endFrame => b = { a with mode := b.mode, oe := b.oe }
  | .writeRow => b = { a with stl := b.stl, d := b.d, cl := b.cl, le := b.le, ckv := b.ckv }

theorem keepsOtherLines_refl (o : Opcode) (a : Lines) : KeepsOtherLines o a a := by
  cases o <;> rfl

/-- The event of a command's phase is on one of the command's lines. -/
theorem keepsOtherLines_of_row {i : Instr} {s : State} {r : PhaseRow} (hrow : rowOf i s = some r) :
    KeepsOtherLines i.opcode s.lines (perform r.action s).lines := by
  cases i <;> cases hp : s.phase <;>
    simp [rowOf, enableRow, disableRow, startFrameRow, endFrameRow, writeRowRow, hp] at hrow <;> subst hrow <;> rfl

theorem keepsOtherLines_exec {i : Instr} {s t : State} (hb : s.busy = true) (h : exec i s = .next t) :
    KeepsOtherLines i.opcode s.lines t.lines := by
  obtain ⟨hidle, -⟩ | ⟨-, r, hrow, ⟨-, rfl⟩ | ⟨-, rfl⟩⟩ := exec_next h
  · simp [hb] at hidle
  · rw [fire_lines]
    exact keepsOtherLines_of_row hrow
  · exact keepsOtherLines_refl i.opcode s.lines

/-- Settles O26: a firing phase writes the command's lines and its bookkeeping, a holding one the counter. -/
theorem commandsKeepOtherRegisters : Obligations.CommandsKeepOtherRegisters := by
  unfold Obligations.CommandsKeepOtherRegisters
  intro i s t hb hexec
  have hlines := keepsOtherLines_exec hb hexec
  refine ⟨?_, ?_, ?_, ?_, ?_⟩
  · rintro (rfl | rfl) <;> exact hlines
  · rintro rfl; exact hlines
  · rintro rfl; exact hlines
  · rintro ⟨n, rfl⟩; exact hlines
  obtain ⟨hidle, -⟩ | ⟨-, r, -, ⟨-, rfl⟩ | ⟨-, rfl⟩⟩ := exec_next hexec
  · simp [hb] at hidle
  · have hlife : (fire i.opcode r s).busy = true → (fire i.opcode r s).life = s.life := by
      cases hn : r.next <;> simp [hn]
    simpa using hlife
  · simp

end Sys2Proof.Machine
end

section
/-! How a step comes to a command's meaning (40_sequencer.md R112, R113), and the outputs between the edges (R111). -/

namespace Sys2Proof.Machine

/-- Settles O10: both sides are the acceptance of i. -/
theorem stepRunsTheOfferedCommand : Obligations.StepRunsTheOfferedCommand := by
  unfold Obligations.StepRunsTheOfferedCommand
  intro s w i hoff hd
  rw [step_of_offered hoff.ok hoff.noRst hoff.ready hoff.valid (hoff.word ▸ hd), exec_of_quiescent i s hoff.ready, advance]

/-- The captured fields of a command give the command back (R45). -/
theorem running_of_captured {s : State} {i : Instr} (hop : s.op = i.opcode.bits) (hsize : s.size = i.size) : s.running = some i := by
  unfold State.running
  rw [hop, Opcode.ofBits_bits, hsize]
  cases i <;> rfl

/-- Settles O11: `running` reads the command from `op` and `size`. -/
theorem stepRunsTheCapturedCommand : Obligations.StepRunsTheCapturedCommand := by
  unfold Obligations.StepRunsTheCapturedCommand
  intro s i hok hr hb hop hsize
  simp [step, clockEdge, hok, edgeEffect, hr, hb, continueCommand, running_of_captured hop hsize]

/-- The block to which a word has been offered is ready for it. -/
theorem offered_offerWord (w : Word) {s : State} (hok : s.cfg.ok = true) : Offered (offerWord w s) w :=
  ⟨hok, rfl, rfl, rfl, rfl⟩

theorem decode_of_decodeTableWord {nbits w : Nat} {i : Instr} (h : decodeTableWord nbits w = some i) :
    decode (tableWord nbits w) = .cmd i := by
  unfold decodeTableWord at h
  split at h <;> simp_all

/-- Settles O12: a placed word is an offered one. -/
theorem placedWordIsRunByTheNextStep : Obligations.PlacedWordIsRunByTheNextStep := by
  unfold Obligations.PlacedWordIsRunByTheNextStep
  intro s nbits w i hok hdec
  refine ⟨stepRunsTheOfferedCommand _ _ i (offered_offerWord _ hok) (decode_of_decodeTableWord hdec), fun hb => ?_⟩
  simp [State.withFetchWord, offerWord, hb]

/-- Settles O14: a quiet edge is `noEvent`. -/
theorem quietEdgeKeepsEveryRegister : Obligations.QuietEdgeKeepsEveryRegister := by
  unfold Obligations.QuietEdgeKeepsEveryRegister
  intro s hok hb hr hv
  exact step_of_quiet hok hr hb hv

/-- The layout of the status word (10_state.md R48), field by field. -/
theorem status_fields (fi fo busy : Bool) (life : BitVec 2) :
    let w : BitVec 8 := 0#3 ++ BitVec.ofBool fi ++ BitVec.ofBool fo ++ BitVec.ofBool busy ++ life
    w.extractLsb' 0 2 = life ∧ w.getLsbD 2 = busy ∧ w.getLsbD 3 = fo ∧ w.getLsbD 4 = fi ∧ w.extractLsb' 5 3 = 0 := by
  revert life
  cases fi <;> cases fo <;> cases busy <;> decide

/-- Settles O17: the ready lines by their definitions, the status word by its layout. -/
theorem outputsAreFunctionsOfTheRegisters : Obligations.OutputsAreFunctionsOfTheRegisters := by
  unfold Obligations.OutputsAreFunctionsOfTheRegisters
  intro s
  obtain ⟨hlife, hbusy, horder, hillegal, hzero⟩ := status_fields s.faultIllegal s.faultOrder s.busy s.life.code
  exact ⟨by simp [State.cmdReady], by simp [State.dinReady, and_assoc], hlife, hbusy, horder, hillegal, hzero, rfl, rfl, rfl⟩

end Sys2Proof.Machine
end

section
/-! The step against the pseudocode of the rules (40_sequencer.md R112 to R117), the lifecycle table (R121) and the counter (R120). -/

namespace Sys2Proof.Machine

/-- A phase has one row in PHASE_TABLE. -/
theorem find_phaseTable : ∀ e ∈ phaseTable, (phaseTable.find? fun r => decide (r.phase = e.phase)) = some e := by
  decide

/-- The rules' event is the machine's (R115, R190). -/
theorem perform_eq_ruleEvent (a : Action) (s : State) : perform a s = ruleEvent s a := by
  cases a <;> rfl

/-- The rules' acceptance of a command is the machine's (R113, R116, R122). -/
theorem ruleAccept_of_cmd {s : State} {w : Word} {i : Instr} (hd : decode w = .cmd i) :
    ruleAccept s w = accept i.opcode i.size (firstPhase i.opcode) s := by
  rw [ruleAccept, hd, accept_eq]

theorem ruleAccept_of_illegal {s : State} {w : Word} {why : IllegalReason} (hd : decode w = .illegal why) :
    ruleAccept s w = illegalEdge s := by
  rw [ruleAccept, hd]
  rfl

/-- The rules' completion is the machine's, of the opcode that was captured (R117, R121). -/
theorem ruleComplete_eq {s t : State} {o : Opcode} (ho : Opcode.ofBits s.op = some o) (hlife : t.life = s.life) :
    ruleComplete s t = some (complete o t) := by
  rw [ruleComplete, ho, complete, hlife]
  rfl

/-- The fire condition of R112, as the rules spell it. -/
theorem fires_iff (s : State) (r : PhaseRow) :
    s.fires r = true ↔ r.req ≤ s.cnt + 1 ∧ (s.phase ≠ .wrData ∨ s.input.dinValid = true) := by
  simp [State.fires]

/-- The row of EN_SETTLE, which the rules treat apart, is the table's row with no event (R110, R115). -/
theorem eq_enSettle_of_mem_phaseTable : ∀ e ∈ phaseTable, e.phase = .enSettle → e = ⟨.enSettle, .wait, .s, .done⟩ := by
  decide

/-- Where a command stands at a row, the rules fire or hold its phase as the machine does. -/
theorem ruleStep_of_busy {s : State} {i : Instr} {r : PhaseRow} (hr : s.input.rst = false) (hb : s.busy = true)
    (hrun : s.running = some i) (hrow : rowOf i s = some r) :
    ruleStep s = some (if s.fires r then fire i.opcode r s else hold s) := by
  have hop := running_eq_some hrun
  obtain ⟨e, he, hphase, rfl⟩ := rowOf_eq_table hrow
  rw [ruleStep, if_neg (by simp [hr]), if_neg (by simp [hb])]
  split
  next hsettle =>
    obtain rfl := eq_enSettle_of_mem_phaseTable e he (hphase.trans hsettle)
    have hfires : s.fires { action := .wait, req := s.cfg.settle, next := none } = true ↔ s.cfg.settle ≤ s.cnt + 1 := by
      simp [fires_iff, hsettle]
    simp only [Wait.edges, After.target, hfires]
    split
    · rw [fire, if_neg (by simp [hsettle])]
      exact ruleComplete_eq hop rfl
    · rfl
  next =>
    have hfind := find_phaseTable e he
    rw [hphase] at hfind
    simp only [hfind, fires_iff]
    split
    · rw [fire, perform_eq_ruleEvent]
      dsimp only
      cases e.after.target s with
      | none => exact ruleComplete_eq hop (by rw [← perform_eq_ruleEvent, perform_life])
      | some p => rfl
    · rfl

/-- Settles O38: edge by edge the two readings agree. -/
theorem stepIsTheRulesStep : Obligations.StepIsTheRulesStep := by
  unfold Obligations.StepIsTheRulesStep
  intro s hcons hok
  cases hr : s.input.rst with
  | true => exact ⟨State.resetOf s.cfg s.inputs, by simp [ruleStep, hr], step_of_reset hok hr⟩
  | false =>
    cases hb : s.busy with
    | true =>
      obtain ⟨i, r, hrun, hrow⟩ := hcons.stands_at_row hb
      exact ⟨_, ruleStep_of_busy hr hb hrun hrow, step_of_busy hok hr hb hrun hrow⟩
    | false =>
      cases hv : s.input.cmdValid with
      | false => exact ⟨s.noEvent, by simp [ruleStep, hr, hb, hv, State.noEvent], step_of_quiet hok hr hb hv⟩
      | true =>
        cases hd : decode s.input.cmd with
        | illegal why =>
          exact ⟨_, by simp [ruleStep, hr, hb, hv, ruleAccept_of_illegal hd], step_of_illegal hok hr hb hv hd⟩
        | cmd i => exact ⟨_, by simp [ruleStep, hr, hb, hv, ruleAccept_of_cmd hd], step_of_offered hok hr hb hv hd⟩

/-- What a step of a busy block can do without reset: fire the phase of the command in execution, or hold it. -/
theorem step_next_of_busy {s t : State} (hrst : s.input.rst = false) (hb : s.busy = true) (h : step s = .next t) :
    ∃ i r, s.running = some i ∧ rowOf i s = some r ∧
      (s.fires r = true ∧ t = (fire i.opcode r s).nextEdge ∨ s.fires r = false ∧ t = (hold s).nextEdge) := by
  obtain ⟨-, ⟨hr, -⟩ | ⟨-, hidle, -⟩ | ⟨-, hidle, -⟩ | ⟨-, hidle, -⟩ | ⟨-, -, hcases⟩⟩ := step_next h
  · simp [hrst] at hr
  · simp [hb] at hidle
  · simp [hb] at hidle
  · simp [hb] at hidle
  · exact hcases

/-- Settles O44: only completion writes `life`, and it is the one edge at which `busy` falls. -/
theorem lifecycleFollowsTheTable : Obligations.LifecycleFollowsTheTable := by
  unfold Obligations.LifecycleFollowsTheTable
  refine ⟨fun s t hrst hstep => ?_, rfl, rfl, rfl, rfl, rfl, rfl, rfl, rfl, rfl, rfl, rfl, rfl, rfl, rfl, rfl⟩
  obtain ⟨-, ⟨hr, -⟩ | ⟨-, hb, -, rfl⟩ | ⟨-, hb, -, _, -, rfl⟩ | ⟨-, hb, -, i, -, rfl⟩ |
    ⟨-, hb, i, r, hrun, -, ⟨-, rfl⟩ | ⟨-, rfl⟩⟩⟩ := step_next hstep
  · simp [hrst] at hr
  · simp [hb]
  · simp [hb]
  · simp [hb]
  · cases hn : r.next with
    | none => simp [hb, hn, running_eq_some hrun]
    | some p => simp [hb, hn]
  · simp [hb]

/-- A firing phase moves on: no row names its own phase as the next (R115). -/
theorem fire_phase_ne {i : Instr} {s : State} {r : PhaseRow} (hrow : rowOf i s = some r) : (fire i.opcode r s).phase ≠ s.phase := by
  obtain ⟨e, he, hphase, rfl⟩ := rowOf_eq_table hrow
  have htable : ∀ e ∈ phaseTable, e.phase ∉ e.after.targets := by decide
  rw [fire_phase, ← hphase]
  exact fun heq => htable e he (heq ▸ e.after.target_mem_targets s)

/-- Settles O51: a phase that stays where it is holds, and `sat` keeps what fits the counter (R10). -/
theorem saturatedCounterStillFires : Obligations.SaturatedCounterStillFires := by
  unfold Obligations.SaturatedCounterStillFires
  refine ⟨fun s t hb hstep => ?_, fun s hok hcnt => ?_, fun s t hb hrst hstep _ hsame hgap _ => ?_⟩
  · cases hr : s.input.rst with
    | true =>
      rw [step_of_reset (step_next hstep).1 hr] at hstep
      cases hstep
      exact Nat.zero_le _
    | false =>
      obtain ⟨i, r, -, -, ⟨-, rfl⟩ | ⟨-, rfl⟩⟩ := step_next_of_busy hr hb hstep
      · simp
      · exact Nat.min_le_right _ _
  · obtain ⟨-, hgap, hhold, hsettle, -⟩ := wait_fits hok
    simp only [counterMax] at hgap hhold hsettle
    omega
  · obtain ⟨i, r, -, hrow, ⟨-, rfl⟩ | ⟨-, rfl⟩⟩ := step_next_of_busy hrst hb hstep
    · exact absurd hsame (fire_phase_ne hrow)
    · obtain ⟨-, hfits, -⟩ := wait_fits (step_next hstep).1
      rw [State.nextEdge_cnt, hold_cnt, Config.sat]
      omega

end Sys2Proof.Machine
end

section
/-! Distances between events (40_sequencer.md R119): the counter bounds the edges since the last event, and a phase that has just been entered
fires after exactly its `req`. -/

namespace Sys2Proof.Machine

/-- The counter rises by at most one at an edge (R112, R120). -/
theorem step_cnt_le {s t : State} (h : step s = .next t) : t.cnt ≤ s.cnt + 1 := by
  obtain ⟨-, ⟨-, rfl⟩ | ⟨-, -, -, rfl⟩ | ⟨-, -, -, _, -, rfl⟩ | ⟨-, -, -, i, -, rfl⟩ |
    ⟨-, -, i, r, -, -, ⟨-, rfl⟩ | ⟨-, rfl⟩⟩⟩ := step_next h
  · exact Nat.zero_le _
  · simp
  · simp
  · simp
  · simp
  · exact Nat.min_le_left _ _

theorem run_cnt_le {s t : State} {k : Nat} (h : run k s = .next t) : t.cnt ≤ s.cnt + k := by
  induction k generalizing t with
  | zero => cases h; simp
  | succ k ih =>
    obtain ⟨u, hu, hut⟩ := run_succ_inv h
    have hlast := step_cnt_le hut
    have hbefore := ih hu
    omega

/-- An edge shows an event exactly where a phase other than EN_SETTLE fires. -/
theorem fired_of_evValid {s t : State} (h : step s = .next t) (hev : t.evValid = true) :
    s.busy = true ∧ ∃ i r, s.running = some i ∧ rowOf i s = some r ∧ s.fires r = true ∧ s.phase ≠ .enSettle ∧
      t = (fire i.opcode r s).nextEdge := by
  obtain ⟨-, ⟨-, rfl⟩ | ⟨-, -, -, rfl⟩ | ⟨-, -, -, _, -, rfl⟩ | ⟨-, -, -, i, -, rfl⟩ |
    ⟨-, hb, i, r, hrun, hrow, ⟨hf, rfl⟩ | ⟨-, rfl⟩⟩⟩ := step_next h
  · simp [State.resetOf] at hev
  · simp at hev
  · simp at hev
  · simp at hev
  · refine ⟨hb, i, r, hrun, hrow, hf, fun hsettle => ?_, rfl⟩
    obtain ⟨e, he, hphase, rfl⟩ := rowOf_eq_table hrow
    obtain rfl := eq_enSettle_of_mem_phaseTable e he (hphase.trans hsettle)
    simp [fire_evValid, perform] at hev
  · simp at hev

/-- An event needs G edges since the counter was 0, and sets it to 0 (R112, R114). -/
theorem event_needs_gap {s t : State} (h : step s = .next t) (hev : t.evValid = true) : s.cfg.gap ≤ s.cnt + 1 ∧ t.cnt = 0 := by
  obtain ⟨-, i, r, -, hrow, hf, hsettle, rfl⟩ := fired_of_evValid h hev
  have hreq := req_of_row hrow
  have hhold : s.cfg.gap ≤ s.cfg.hold := le_max_left _ _
  have hedges := ((fires_iff s r).mp hf).1
  rw [if_neg hsettle] at hreq
  split at hreq <;> exact ⟨by omega, fire_cnt _ _ _⟩

/-- No event in fewer than G edges from a counter that was 0, whatever the host presents. -/
theorem no_event_before_gap {t u : State} {j : Nat} (hcnt : t.cnt = 0) (hj : 1 ≤ j) (hgap : j < t.cfg.gap) (h : run j t = .next u) :
    u.evValid = false := by
  obtain ⟨k, rfl⟩ := Nat.exists_eq_add_of_le' hj
  obtain ⟨v, hv, hvu⟩ := run_succ_inv h
  by_contra hev
  have hneeds := (event_needs_gap hvu (by simpa using hev)).1
  have hcount := run_cnt_le hv
  rw [run_cfg k hv] at hneeds
  omega

/-- Settles O40: the event sets the counter to 0. -/
theorem eventsAreAtLeastGapApart : Obligations.EventsAreAtLeastGapApart := by
  unfold Obligations.EventsAreAtLeastGapApart
  intro s t u j hstep hev hj hgap hrun
  exact no_event_before_gap (event_needs_gap hstep hev).2 hj (step_cfg hstep ▸ hgap) hrun

/-- The row that raises CKV again (R115). -/
theorem raises_ckv_of_row {i : Instr} {s : State} {r : PhaseRow} (hrow : rowOf i s = some r) (hp : s.phase ∈ [.sfCkvHi, .wrCkvHi]) :
    r.action = .pinWrite .ckv true ∧ r.req = s.cfg.hold := by
  obtain ⟨e, he, hphase, rfl⟩ := rowOf_eq_table hrow
  have htable : ∀ e ∈ phaseTable, e.phase ∈ [.sfCkvHi, .wrCkvHi] → e.action = .pinWrite .ckv true ∧ e.wait = .h := by decide
  obtain ⟨haction, hwait⟩ := htable e he (hphase ▸ hp)
  exact ⟨haction, by simp [hwait, Wait.edges]⟩

/-- CKV falls only at an edge with an event. -/
theorem evValid_of_ckv_falls {s t : State} (h : step s = .next t) (hhigh : s.ckv = true) (hlow : t.ckv = false) : t.evValid = true := by
  cases hr : s.input.rst with
  | true =>
    rw [step_of_reset (step_next h).1 hr] at h
    cases h
    simp [State.resetOf] at hlow
  | false =>
    obtain hsilent | hevent := step_silent_or_event hr h
    · have hsame : t.ckv = s.ckv := congrArg Lines.ckv hsilent.lines
      simp [hsame, hhigh] at hlow
    · exact hevent.valid

/-- A phase that has just been entered holds while its edges are too few (R112). -/
theorem run_before_req {s : State} {i : Instr} {r : PhaseRow} {j : Nat} (hok : s.cfg.ok = true) (hb : s.busy = true)
    (hrun : s.running = some i) (hrow : rowOf i s = some r) (hcnt : s.cnt = 0) (hj : j < r.req) (hr : NoReset j s) :
    run j s = .next (s.waited j) := by
  refine run_hold j hok (by omega) hb hrun hrow hr fun k hk => ?_
  simp [State.fires, State.waited, Config.sat, hcnt]
  omega

theorem SequencerInv.busy_of_phase {s : State} (h : SequencerInv s) (hp : s.phase ≠ .idle) : s.busy = true := by
  simpa using fun hb => hp (h.idle_iff.mpr hb)

/-- Settles O41: CKV is low exactly at the phases that raise it, and such a phase, just entered, holds until its H edges have come. -/
theorem ckvLowPulseLastsExactlyHold : Obligations.CkvLowPulseLastsExactlyHold := by
  unfold Obligations.CkvLowPulseLastsExactlyHold
  intro s t hcons hstep hhigh hlow hnr
  have ht := everyStepKeepsTheInvariant s t hcons hstep
  have hcfg : t.cfg = s.cfg := step_cfg hstep
  have hok : t.cfg.ok = true := hcfg ▸ (step_next hstep).1
  have hcnt : t.cnt = 0 := (event_needs_gap hstep (evValid_of_ckv_falls hstep hhigh hlow)).2
  have hp : t.phase ∈ [.sfCkvHi, .wrCkvHi] := ht.pulses.ckv_low.mp hlow
  have hb : t.busy = true := ht.sequencer.busy_of_phase fun hidle => by simp [hidle] at hp
  obtain ⟨i, r, hrun, hrow⟩ := ht.stands_at_row hb
  obtain ⟨haction, hreq⟩ := raises_ckv_of_row hrow hp
  rw [hcfg] at hreq
  obtain ⟨hgap, -, hfits, -, hle⟩ := wait_fits hok
  rw [hcfg] at hgap hfits hle
  obtain ⟨-, -, -, htime, -⟩ := cycleCountsAreCeilings.2 s.cfg
  refine ⟨fun j hj => ⟨t.waited j, ?_, hlow⟩, ⟨(fire i.opcode r (t.waited (r.req - 1))).nextEdge, ?_, ?_⟩, htime⟩
  · exact run_before_req hok hb hrun hrow hcnt (hreq ▸ hj) fun k hk => hnr k (by omega)
  · rw [← hreq] at hnr ⊢
    exact run_phase hok hb hrun hrow hcnt (fun hdata => by simp [hdata] at hp) (by omega) (by rw [hcfg]; omega) hnr
  · simp [fire_ckv, haction, perform, State.pinWrite, State.setLine]

/-- A run of at least one edge has a first edge. -/
theorem run_succ_first {s u : State} {k : Nat} (h : run (k + 1) s = .next u) : ∃ t, step s = .next t ∧ run k t = .next u := by
  cases hs : step s with
  | next t => exact ⟨t, rfl, by rwa [run_succ k hs] at h⟩
  | fault r => simp [run, hs] at h
  | refused r => simp [run, hs] at h

/-- A quiescent block shows no event at the next edge, and does not count (R112, R113). -/
theorem step_of_quiescent {s t : State} (hb : s.busy = false) (hcnt : s.cnt = 0) (h : step s = .next t) :
    t.evValid = false ∧ t.cnt = 0 := by
  obtain ⟨-, ⟨-, rfl⟩ | ⟨-, -, -, rfl⟩ | ⟨-, -, -, _, -, rfl⟩ | ⟨-, -, -, i, -, rfl⟩ | ⟨-, hbusy, -⟩⟩ := step_next h
  · exact ⟨rfl, rfl⟩
  · exact ⟨rfl, hcnt⟩
  · exact ⟨rfl, hcnt⟩
  · exact ⟨by simp, by simp⟩
  · simp [hb] at hbusy

/-- From the completion of a wait no event comes in G edges: acceptance takes one of them (R113). -/
theorem no_event_from_quiescent {s u : State} {k : Nat} (hb : s.busy = false) (hcnt : s.cnt = 0) (hev : s.evValid = false)
    (hk : k ≤ s.cfg.gap) (h : run k s = .next u) : u.evValid = false := by
  cases k with
  | zero => cases h; exact hev
  | succ k =>
    obtain ⟨t, hst, htu⟩ := run_succ_first h
    obtain ⟨hevt, hcntt⟩ := step_of_quiescent hb hcnt hst
    rcases Nat.eq_zero_or_pos k with rfl | hpos
    · cases htu; exact hevt
    · exact no_event_before_gap hcntt hpos (by rw [step_cfg hst]; omega) htu

/-- ENABLE's event leaves the block, its counter at 0, in the settle wait (R115, R140). -/
theorem settle_entered {s t : State} (h : step s = .next t) (hp : s.phase = .enDcdcLo) (hev : t.evValid = true) :
    t.phase = .enSettle ∧ t.cnt = 0 := by
  obtain ⟨-, i, r, -, hrow, -, -, rfl⟩ := fired_of_evValid h hev
  obtain ⟨e, he, hphase, rfl⟩ := rowOf_eq_table hrow
  have htable : ∀ e ∈ phaseTable, e.phase = .enDcdcLo → e.after = .go .enSettle := by decide
  simp [htable e he (hphase.trans hp), After.target]

theorem row_of_enSettle {i : Instr} {s : State} {r : PhaseRow} (hrow : rowOf i s = some r) (hp : s.phase = .enSettle) :
    r.action = .wait ∧ r.req = s.cfg.settle ∧ r.next = none := by
  obtain ⟨e, he, hphase, rfl⟩ := rowOf_eq_table hrow
  obtain rfl := eq_enSettle_of_mem_phaseTable e he (hphase.trans hp)
  exact ⟨rfl, rfl, rfl⟩

/-- The settle wait, just entered, holds the block busy without an event for its S edges, and then leaves it quiescent (R140). -/
theorem run_settle {s : State} (hcons : Consistent s) (hok : s.cfg.ok = true) (hp : s.phase = .enSettle) (hcnt : s.cnt = 0)
    (hnr : NoReset s.cfg.settle s) :
    (∀ j, j < s.cfg.settle → run j s = .next (s.waited j)) ∧
    ∃ t, run s.cfg.settle s = .next t ∧ t.busy = false ∧ t.cnt = 0 ∧ t.evValid = false := by
  have hb : s.busy = true := hcons.sequencer.busy_of_phase (by simp [hp])
  obtain ⟨i, r, hrun, hrow⟩ := hcons.stands_at_row hb
  obtain ⟨haction, hreq, hnext⟩ := row_of_enSettle hrow hp
  obtain ⟨-, -, -, hfits, -⟩ := wait_fits hok
  have hpos : 1 ≤ s.cfg.settle := (illegalConfigurationIsRefused.2.1 s.cfg hok).2
  rw [← hreq] at hnr hfits hpos ⊢
  refine ⟨fun j hj => run_before_req hok hb hrun hrow hcnt hj fun k hk => hnr k (by omega), _,
    run_phase hok hb hrun hrow hcnt (by simp [hp]) hpos hfits hnr, ?_, fire_cnt _ _ _, ?_⟩
  · exact (fire_busy _ _ _).trans (by rw [hnext]; rfl)
  · exact (fire_evValid _ _ _).trans (by rw [haction]; rfl)

/-- Settles O42: the block is busy for the S edges of the settle wait, and the quiescent block it leaves shows no event for G more. -/
theorem nothingHappensDuringTheSettle : Obligations.NothingHappensDuringTheSettle := by
  unfold Obligations.NothingHappensDuringTheSettle
  intro s t hcons hstep hp hev hnr
  have ht := everyStepKeepsTheInvariant s t hcons hstep
  have hcfg : t.cfg = s.cfg := step_cfg hstep
  have hok : t.cfg.ok = true := hcfg ▸ (step_next hstep).1
  rw [← hcfg] at hnr ⊢
  obtain ⟨hpt, hcnt⟩ := settle_entered hstep hp hev
  have hb : t.busy = true := ht.sequencer.busy_of_phase (by simp [hpt])
  obtain ⟨hwaits, v, hdone, hbv, hcntv, hevv⟩ := run_settle ht hok hpt hcnt fun k hk => hnr k (by omega)
  refine ⟨fun j hj => ⟨_, hwaits j hj, ?_⟩, ⟨v, hdone, hbv⟩, fun j u hj hle hju => ?_⟩
  · simp [State.takesCommand, State.cmdReady, hb]
  · rcases Nat.lt_or_ge j t.cfg.settle with hlt | hge
    · rw [hwaits j hlt] at hju
      cases hju
      exact if_neg (by omega)
    · obtain ⟨k, rfl⟩ := Nat.exists_eq_add_of_le hge
      rw [run_add _ _ hdone] at hju
      exact no_event_from_quiescent hbv hcntv hevv (by rw [run_cfg _ hdone]; omega) hju

end Sys2Proof.Machine
end

section
/-! The end of a run and its observation (40_sequencer.md R124). -/

namespace Sys2Proof.Machine

/-- A run that has not ended is not observed. -/
theorem observation_eq_none {s t : State} {k : Nat} (h : run k s = .next t) (hend : ¬ Ended t) : s.observation k = none := by
  simp only [State.observation, h]
  exact if_neg hend

/-- What the observation of a run reads of a state besides the trace (R124). -/
structure ObservedAlike (s t : State) : Prop where
  lines : t.lines = s.lines
  life : t.life = s.life
  faultIllegal : t.faultIllegal = s.faultIllegal
  faultOrder : t.faultOrder = s.faultOrder

/-- Where a run has ended, edges without reset show no event and leave what is observed (R112, R124). -/
theorem Ended.run {s : State} {j : Nat} (e : Nat) (h : Ended s) (hok : s.cfg.ok = true) (hr : NoReset j s) :
    traceFrom e j s = [] ∧ ∃ t, run j s = .next t ∧ Ended t ∧ ObservedAlike s t := by
  induction j generalizing s e with
  | zero => exact ⟨rfl, s, rfl, h, rfl, rfl, rfl, rfl⟩
  | succ j ih =>
    obtain ⟨hstep, hended⟩ := h.step hok (hr 0 (by omega))
    obtain ⟨htrace, t, hrun, ht, hlines, hlife, hillegal, horder⟩ := ih (e + 1) hended hok ((noReset_succ hstep).mp hr).2
    refine ⟨?_, t, (run_succ j hstep).trans hrun, ht, hlines, hlife, hillegal, horder⟩
    rw [traceFrom_succ e j hstep, htrace]
    rfl

/-- Settles O53: a reset edge is silent, an observation is one of an ended run, and an ended run stays as it is. -/
theorem runIsObservedAtItsEnd : Obligations.RunIsObservedAtItsEnd := by
  unfold Obligations.RunIsObservedAtItsEnd
  refine ⟨fun s ⟨hok, hrst⟩ => ?_, fun s t k hrun => ⟨fun hb => ?_, fun ⟨e, he, hv⟩ => ?_, fun hb hquiet => ?_⟩,
    fun s t o j k hok hrun hobs hnr => ?_⟩
  · have hreset := step_of_reset hok hrst
    refine ⟨run_succ 0 hreset, ?_⟩
    rw [State.trace, traceFrom_succ 0 0 hreset]
    rfl
  · exact observation_eq_none hrun fun hend => by simp [hend.1] at hb
  · exact observation_eq_none hrun fun hend => by simp [hend.2 e he] at hv
  · exact (observation_eq_some hrun).mpr ⟨⟨hb, hquiet⟩, rfl⟩
  · obtain ⟨hend, rfl⟩ := (observation_eq_some hrun).mp hobs
    obtain ⟨htrace, u, hju, hu, hlines, hlife, hillegal, horder⟩ := hend.run (0 + k) (by rwa [run_cfg k hrun]) hnr
    refine (observation_eq_some ((run_add k j hrun).trans hju)).mpr ⟨hu, ?_⟩
    rw [State.trace, State.trace, traceFrom_add 0 k j hrun, htrace, List.append_nil, hlines, hlife, hillegal, horder]

/-- WR_DATA holds the block for as long as no byte and no reset comes (R164, R168). -/
theorem run_without_byte {s : State} {j : Nat} (hcons : Consistent s) (hok : s.cfg.ok = true) (hp : s.phase = .wrData) (hr : NoReset j s)
    (hbyte : ∀ i, i < j → (s.inputAt i).dinValid = false) : run j s = .next (s.waited j) := by
  have hb : s.busy = true := hcons.sequencer.busy_of_phase (by simp [hp])
  obtain ⟨i, r, hrun, hrow⟩ := hcons.stands_at_row hb
  refine run_hold j hok hcons.sequencer.cnt_fits hb hrun hrow hr fun k hk => ?_
  simp [State.fires, hp, hbyte k hk]

/-- Settles O54: the waiting block is busy, so its run has not ended. -/
theorem runThatWaitsForAByteDoesNotEnd : Obligations.RunThatWaitsForAByteDoesNotEnd := by
  unfold Obligations.RunThatWaitsForAByteDoesNotEnd
  intro s t j k hcons hok hrun hp hnr hbyte
  have hb : t.busy = true := hcons.sequencer.busy_of_phase (by simp [hp])
  refine observation_eq_none ((run_add k j hrun).trans (run_without_byte hcons hok hp hnr hbyte)) fun ⟨hidle, _⟩ => ?_
  simp [hb] at hidle

end Sys2Proof.Machine
end

section
/-! A run through the phases of one command (40_sequencer.md R112 to R118): where it ends, that the block is busy up to its last edge, and the
events it shows; such runs are put together phase by phase, and acceptance comes before them. -/

namespace Sys2Proof.Machine

theorem run_inputs {s t : State} {k : Nat} (h : run k s = .next t) : t.inputs = s.inputs.drop k := by
  induction k generalizing t with
  | zero => cases h; rfl
  | succ k ih =>
    obtain ⟨u, hu, hut⟩ := run_succ_inv h
    rw [step_inputs hut, ih hu, List.tail_drop]

/-- No reset in j + k edges: none in the k that follow a run of j. -/
theorem NoReset.after {s t : State} {j k : Nat} (h : run j s = .next t) (hnr : NoReset (j + k) s) : NoReset k t := fun m hm => by
  have hlater : t.inputAt m = s.inputAt (j + m) := by simp [State.inputAt, run_inputs h]
  rw [hlater]
  exact hnr (j + m) (by omega)

/-- The k edges from s, the first of them numbered e: they end at t, the block is busy before each of them, and they show `events` (R43, R124). -/
structure BusyRun (e k : Nat) (s t : State) (events : List (Nat × Event)) : Prop where
  ends : run k s = .next t
  busy : ∀ j, j < k → ∃ u, run j s = .next u ∧ u.busy = true
  shows : traceFrom e k s = events

theorem BusyRun.single {s t : State} (e : Nat) (hb : s.busy = true) (h : step s = .next t) :
    BusyRun e 1 s t (t.lastEvent.toList.map fun v => (e, v)) where
  ends := run_succ 0 h
  busy j hj := ⟨s, by simp [Nat.lt_one_iff.mp hj], hb⟩
  shows := by rw [traceFrom_succ e 0 h, traceFrom, List.append_nil]

theorem BusyRun.append {s t u : State} {e e' j k : Nat} {l l' : List (Nat × Event)} (h : BusyRun e j s t l) (h' : BusyRun e' k t u l')
    (he : e' = e + j) : BusyRun e (j + k) s u (l ++ l') where
  ends := (run_add j k h.ends).trans h'.ends
  busy m hm := by
    rcases Nat.lt_or_ge m j with hlt | hge
    · exact h.busy m hlt
    · obtain ⟨n, rfl⟩ := Nat.exists_eq_add_of_le hge
      rw [run_add j n h.ends]
      exact h'.busy n (by omega)
  shows := by rw [traceFrom_add e j k h.ends, h.shows, ← he, h'.shows]

/-- Waiting shows no event (R112, R190). -/
theorem BusyRun.waits {s : State} {j : Nat} (e : Nat) (hb : s.busy = true) (hwait : ∀ k, k ≤ j → run k s = .next (s.waited k)) :
    BusyRun e j s (s.waited j) [] := by
  induction j with
  | zero => exact ⟨hwait 0 le_rfl, fun k hk => absurd hk (Nat.not_lt_zero k), rfl⟩
  | succ j ih =>
    have hbefore := hwait j (Nat.le_succ j)
    have hstep : step (s.waited j) = .next (s.waited (j + 1)) := (run_succ_last j hbefore).symm.trans (hwait (j + 1) le_rfl)
    exact (ih fun k hk => hwait k (by omega)).append (.single (e + j) hb hstep) rfl

/-- A command in execution has just come to one of its phases: its counter is at 0 (R112, R113). -/
structure AtPhase (i : Instr) (s : State) (p : Phase) : Prop where
  ok : s.cfg.ok = true
  busy : s.busy = true
  op : s.op = i.opcode.bits
  size : s.size = i.size
  cnt : s.cnt = 0
  phase : s.phase = p

/-- The edges that a phase needs (R115). -/
def Phase.req (p : Phase) (c : Config) : Nat :=
  if p = .enSettle then c.settle else if p = .sfCkvHi ∨ p = .wrCkvHi then c.hold else c.gap

theorem Phase.req_fits (p : Phase) {c : Config} (hok : c.ok = true) : 1 ≤ p.req c ∧ p.req c ≤ counterMax c.cntW := by
  obtain ⟨hgap, hgapFits, hholdFits, hsettleFits, hle⟩ := wait_fits hok
  have hsettle : 1 ≤ c.settle := (illegalConfigurationIsRefused.2.1 c hok).2
  unfold Phase.req
  split
  · exact ⟨hsettle, hsettleFits⟩
  · split
    · exact ⟨hgap.trans hle, hholdFits⟩
    · exact ⟨hgap, hgapFits⟩

/-- A phase other than WR_DATA that has just been entered waits until its edges have come, and at the last of them does what its command's
meaning does there, f, which sets the counter and the event anew (R114, R118). `req` names the phase's wait as the meanings do: unfolding `p.req`
instead would have the kernel compare the counts behind it. -/
theorem BusyRun.of_phase {i : Instr} {s : State} {p : Phase} {f : State → State} (req : Config → Nat) (e : Nat) (h : AtPhase i s p)
    (hp : p ∈ phasesOf i.opcode) (hdata : p ≠ .wrData) (hreq : p.req s.cfg = req s.cfg) (hnr : NoReset (req s.cfg) s)
    (hexec : ∀ x : State, x.busy = true → x.phase = p → req x.cfg ≤ x.cnt + 1 → exec i x = .next (f x))
    (hf : ∀ j, { f (s.waited j) with inputs := s.inputs } = f s) :
    BusyRun (e + 1) (req s.cfg) s { f s with inputs := s.inputs.drop (req s.cfg) }
      ((f s).lastEvent.toList.map fun v => (e + req s.cfg, v)) := by
  obtain ⟨hok, hb, hop, hsize, hcnt, rfl⟩ := h
  obtain ⟨r, hrow⟩ := Option.isSome_iff_exists.mp ((rowOf_isSome i s).mpr hp)
  have hrowReq : r.req = req s.cfg := (req_of_row hrow).trans hreq
  obtain ⟨hpos, hfits⟩ := s.phase.req_fits hok
  rw [hreq] at hpos hfits
  obtain ⟨j, hj⟩ := Nat.exists_eq_add_of_le' hpos
  rw [hj] at hnr hfits hrowReq ⊢
  have hwaits : BusyRun (e + 1) j s (s.waited j) [] := .waits (e + 1) hb fun k hk =>
    run_before_req hok hb (running_of_captured hop hsize) hrow hcnt (by omega) fun m hm => hnr m (by omega)
  have hstep : step (s.waited j) = .next (f (s.waited j)).nextEdge := by
    have hcount : (s.waited j).cnt = j := by simp [State.waited, Config.sat, hcnt]; omega
    rw [stepRunsTheCapturedCommand (s.waited j) i hok (by simpa using hnr j (by omega)) hb hop hsize,
      hexec (s.waited j) hb rfl (by rw [waited_cfg, hcount, hj])]
    rfl
  have hall := hwaits.append (.single (e + 1 + j) hb hstep) rfl
  have hend : (f (s.waited j)).nextEdge = { f s with inputs := s.inputs.drop (j + 1) } := by
    rw [← hf j, ← run_inputs hall.ends]
    rfl
  rwa [hend, Nat.add_right_comm e 1 j] at hall

/-- Acceptance brings the block to FIRST of the command (R113, R116). -/
theorem AtPhase.of_acceptance {s t : State} {w : Word} {i : Instr} (hoff : Offered s w) (hexec : exec i s = .next t) :
    AtPhase i t.nextEdge (firstPhase i.opcode) := by
  rw [exec_of_quiescent i s hoff.ready] at hexec
  cases hexec
  exact ⟨by simpa using hoff.ok, by simp, by simp, by simp, by simp, by simp⟩

theorem step_of_exec {s t : State} {w : Word} {i : Instr} (hoff : Offered s w) (hd : decode w = .cmd i) (hexec : exec i s = .next t) :
    step s = .next t.nextEdge := by
  rw [stepRunsTheOfferedCommand s w i hoff hd, hexec]
  rfl

/-- A command accepted at edge 0, whose phases then take k edges (R113, R118). -/
theorem BusyRun.from_acceptance {s t u : State} {w : Word} {i : Instr} {k : Nat} {events : List (Nat × Event)} (hoff : Offered s w)
    (hd : decode w = .cmd i) (hexec : exec i s = .next t) (h : BusyRun 1 k t.nextEdge u events) :
    run 1 s = .next t.nextEdge ∧ s.trace (k + 1) = events ∧ BusyThrough k s ∧ run (k + 1) s = .next u := by
  have hstep := step_of_exec hoff hd hexec
  have hsilent : t.evValid = false := by
    rw [exec_of_quiescent i s hoff.ready] at hexec
    cases hexec
    exact accept_evValid ..
  refine ⟨run_succ 0 hstep, ?_, fun j hj hjk => ?_, (run_succ k hstep).trans h.ends⟩
  · rw [State.trace, traceFrom_succ 0 k hstep, h.shows]
    simp [State.lastEvent, hsilent]
  · obtain ⟨m, rfl⟩ := Nat.exists_eq_add_of_le' hj
    rw [run_succ m hstep]
    exact h.busy m hjk

end Sys2Proof.Machine
end

section
/-! The power sequencing commands (41_power.md): ENABLE and DISABLE phase by phase, from acceptance to completion, and in the lifecycle states
in which they are no contract transition. -/

namespace Sys2Proof.Machine

/-- EN_DCDC_LO lowers DCDC after G edges (R115, R140). -/
theorem busyRun_enDcdcLo {s : State} (e : Nat) (h : AtPhase .enable s .enDcdcLo) (hnr : NoReset s.cfg.gap s) :
    BusyRun (e + 1) s.cfg.gap s { s with
      dcdc := false, evValid := true, evSig := 8, evVal := 0x00, cnt := 0, phase := .enSettle, inputs := s.inputs.drop s.cfg.gap }
      [(e + s.cfg.gap, Line.dcdc.event false)] := by
  have hrun := BusyRun.of_phase Config.gap e h (by decide) (by decide) (by simp [Phase.req]) hnr
    (fun x hb hp hq => (enablePhasesFire x hb).1 hp hq) fun _ => rfl
  exact hrun

/-- EN_SETTLE completes after S edges, with no event (R115, R140). -/
theorem busyRun_enSettle {s : State} (e : Nat) (h : AtPhase .enable s .enSettle) (hnr : NoReset s.cfg.settle s) :
    BusyRun (e + 1) s.cfg.settle s { s with
      evValid := false, cnt := 0, busy := false, phase := .idle, life := if s.life = .disabled then .idle else s.life,
      inputs := s.inputs.drop s.cfg.settle }
      [] := by
  have hrun := BusyRun.of_phase Config.settle e h (by decide) (by decide) (by simp [Phase.req]) hnr
    (fun x hb hp hq => (enablePhasesFire x hb).2 hp hq) fun _ => rfl
  exact hrun

/-- DIS_DCDC_HI raises DCDC after G edges and completes (R115, R143). -/
theorem busyRun_disDcdcHi {s : State} (e : Nat) (h : AtPhase .disable s .disDcdcHi) (hnr : NoReset s.cfg.gap s) :
    BusyRun (e + 1) s.cfg.gap s { s with
      dcdc := true, evValid := true, evSig := 8, evVal := 0x01, cnt := 0, busy := false, phase := .idle, life := .disabled,
      inputs := s.inputs.drop s.cfg.gap }
      [(e + s.cfg.gap, Line.dcdc.event true)] := by
  have hrun := BusyRun.of_phase Config.gap e h (by decide) (by decide) (by simp [Phase.req]) hnr
    (fun x hb hp hq => disablePhaseFires x hb hp hq) fun _ => rfl
  exact hrun

/-- The one legal word with ENABLE's opcode is its table word (R92, R96, R97). -/
theorem legalWord_of_enable_opField {w : Word} (hop : w.opField = 0x1#4) (hw : w ≠ 0x00000001#32) : legalWord w = false := by
  by_contra hlegal
  obtain ⟨i, hi⟩ := legalWord_eq_true.mp (by simpa using hlegal)
  obtain rfl := (decode_eq_cmd_iff w i).mp hi
  have hopcode : i.opcode = .enable := Opcode.bits_injective ((encode_opField i).symm.trans hop)
  cases i <;> cases hopcode
  exact hw rfl

/-- Settles O27: acceptance, G edges of EN_DCDC_LO and S edges of EN_SETTLE; S is the settle time rounded up. -/
theorem enableRunsToCompletion : Obligations.EnableRunsToCompletion := by
  unfold Obligations.EnableRunsToCompletion
  refine ⟨fun s hoff hnr => ?_, fun w => legalWord_of_enable_opField⟩
  obtain ⟨hexec, -⟩ := acceptanceCapturesTheCommand s hoff.ready
  obtain ⟨-, hnr⟩ := (noReset_succ (step_of_exec hoff rfl hexec)).mp hnr
  have hlow := busyRun_enDcdcLo 0 (.of_acceptance hoff hexec) fun j hj => hnr j (Nat.lt_add_right _ hj)
  have hboth := hlow.append (busyRun_enSettle s.cfg.gap ⟨hoff.ok, rfl, rfl, rfl, rfl, rfl⟩ (hnr.after hlow.ends)) (Nat.add_comm _ _)
  obtain ⟨-, -, -, hmiddle⟩ := hlow.from_acceptance hoff rfl hexec
  obtain ⟨hfirst, htrace, hbusy, hends⟩ := hboth.from_acceptance hoff rfl hexec
  obtain ⟨-, -, -, -, htime⟩ := cycleCountsAreCeilings.2 s.cfg
  refine ⟨⟨_, hexec, hfirst, rfl, rfl, rfl, rfl⟩, by simpa using htrace, ⟨_, hmiddle, rfl, rfl⟩, hbusy, ?_, htime⟩
  simpa [State.nextEdge, List.drop_drop, Nat.add_right_comm s.cfg.gap 1] using hends

/-- Settles O28: acceptance and G edges of DIS_DCDC_HI. -/
theorem disableRunsToCompletion : Obligations.DisableRunsToCompletion := by
  unfold Obligations.DisableRunsToCompletion
  intro s hoff hnr
  obtain ⟨-, hexec, -⟩ := acceptanceCapturesTheCommand s hoff.ready
  obtain ⟨-, hnr⟩ := (noReset_succ (step_of_exec hoff rfl hexec)).mp hnr
  have hhigh := busyRun_disDcdcHi 0 (.of_acceptance hoff hexec) hnr
  obtain ⟨hfirst, htrace, hbusy, hends⟩ := hhigh.from_acceptance hoff rfl hexec
  refine ⟨⟨_, hexec, hfirst, rfl, rfl, rfl, rfl⟩, by simpa using htrace, hbusy, ?_⟩
  simpa [State.nextEdge] using hends

/-- A quiescent block has the converter off exactly in Disabled (R192). -/
theorem Consistent.disabled_iff_dcdc {s : State} (h : Consistent s) (hb : s.busy = false) : s.life = .disabled ↔ s.dcdc = true :=
  h.lifecycle.dcdc_life (by simp [h.sequencer.idle_iff.mpr hb])

/-- Settles O33: outside Disabled DCDC is low already, so the state that ENABLE leaves has the lines it found. -/
theorem repeatedEnableLeavesTheLines : Obligations.RepeatedEnableLeavesTheLines := by
  unfold Obligations.RepeatedEnableLeavesTheLines
  intro s hcons hlife hoff hnr
  have hdcdc : s.dcdc = false := by simpa [hlife] using hcons.disabled_iff_dcdc hoff.ready
  obtain ⟨⟨t, hexec, -, -, -, -, hfault⟩, htrace, -, hbusy, hends, -⟩ := enableRunsToCompletion.1 s hoff hnr
  exact ⟨t, _, hexec, by simpa [hlife] using hfault, htrace, hdcdc, hbusy, hends, rfl, by simp [State.lines, hdcdc], if_neg hlife,
    by simp [hlife]⟩

/-- Settles O34: DISABLE writes DCDC alone, which is high already in Disabled; in an open frame the invariant has OE and MODE high. -/
theorem disableOutOfOrder : Obligations.DisableOutOfOrder := by
  unfold Obligations.DisableOutOfOrder
  intro s hcons hoff hnr
  obtain ⟨-, -, -, hends⟩ := disableRunsToCompletion s hoff hnr
  refine ⟨fun hlife => ?_, fun hlife => ?_⟩
  · have hdcdc : s.dcdc = true := (hcons.disabled_iff_dcdc hoff.ready).mp hlife
    exact ⟨_, hends, rfl, by simp [State.lines, hdcdc], hdcdc, rfl, by simp [hlife]⟩
  · have hidle : s.phase = .idle := hcons.sequencer.idle_iff.mpr hoff.ready
    have hmode : s.mode = true := hcons.lifecycle.mode_frame hlife (by simp [hidle])
    exact ⟨_, hends, rfl, rfl, hmode, hcons.lifecycle.oe_frame hlife, rfl, by simp [hlife]⟩

/-- DCDC's two rows of PHASE_TABLE are those of the power commands (R115, R145). -/
theorem dcdc_of_row {i : Instr} {s : State} {r : PhaseRow} {b : Bool} (hrow : rowOf i s = some r) (ha : r.action = .pinWrite .dcdc b) :
    i = if b then .disable else .enable := by
  obtain ⟨e, he, hphase, rfl⟩ := rowOf_eq_table hrow
  have htable : ∀ o, ∀ b, ∀ e ∈ phaseTable, e.action = .pinWrite .dcdc b → e.phase ∈ phasesOf o →
      o = if b then .disable else .enable := by
    intro o; cases o <;> decide
  have hopcode := htable i.opcode b e he ha (hphase ▸ phase_mem_of_row hrow)
  cases i <;> cases b <;> cases hopcode <;> rfl

theorem Line.eq_dcdc_of_id {sig : Line} (h : sig.id = Line.dcdc.id) : sig = .dcdc := by
  cases sig <;> simp [Line.id] at h ⊢

/-- The id of DCDC on the trace port is an event of DCDC (R191). -/
theorem dcdc_of_event {a : Action} {s : State} (hvalid : (perform a s).evValid = true) (hsig : (perform a s).evSig = Line.dcdc.id) :
    a = .pinWrite .dcdc (perform a s).dcdc := by
  cases a with
  | pinWrite sig b =>
    obtain rfl := Line.eq_dcdc_of_id ((State.pinWrite_evSig s sig b).symm.trans hsig)
    rfl
  | busWriteStream => simp [perform, busId, Line.id] at hsig
  | wait => simp [perform] at hvalid

/-- Settles O49: DCDC's events come from the two rows of the power commands, and a line changes only at its event. -/
theorem onlyPowerCommandsDriveDcdc : Obligations.OnlyPowerCommandsDriveDcdc := by
  unfold Obligations.OnlyPowerCommandsDriveDcdc
  refine ⟨fun s t _ hstep hvalid hsig => ?_, fun s t hrst hstep hchange => ?_, fun _ _ => rfl⟩
  · obtain ⟨-, i, r, hrun, hrow, -, -, rfl⟩ := fired_of_evValid hstep hvalid
    rw [State.nextEdge_evValid, fire_evValid] at hvalid
    rw [State.nextEdge_evSig, fire_evSig] at hsig
    rw [hrun, dcdc_of_row hrow (dcdc_of_event hvalid hsig), State.nextEdge_dcdc, fire_dcdc]
    exact ⟨fun hlow => by simp [hlow], fun hhigh => by simp [hhigh]⟩
  · have hlines : t.lines.dcdc ≠ s.lines.dcdc := hchange
    obtain hsilent | ⟨hvalid, ⟨-, hbus⟩ | ⟨sig, b, hsig, -, hline⟩⟩ := step_silent_or_event hrst hstep
    · exact absurd (congrArg Lines.dcdc hsilent.lines) hlines
    · exact absurd (congrArg Lines.dcdc hbus) hlines
    · refine ⟨?_, hvalid⟩
      rw [hline] at hlines
      have hdcdc : Line.dcdc = sig := by_contra fun hother => hlines ((s.line_setLine sig .dcdc b).trans (if_neg hother))
      rw [hsig, hdcdc]

end Sys2Proof.Machine
end

section
/-! The frame commands (42_frame.md): START_FRAME and END_FRAME phase by phase, and from acceptance to completion. -/

namespace Sys2Proof.Machine

/-- Two stretches of a command one after the other: where the first ends, the second has its phase to begin with, and the state that it
leaves stands at the inputs that both have left (R112, R116). -/
theorem BusyRun.chain {i : Instr} {p : Phase} {s t u : State} {e j k : Nat} {l l' : List (Nat × Event)}
    (hfirst : NoReset j s → BusyRun (e + 1) j s t l) (hsecond : AtPhase i t p → NoReset k t → BusyRun (e + j + 1) k t u l')
    (ht : AtPhase i t p) (hnr : NoReset (j + k) s) :
    BusyRun (e + 1) (j + k) s { u with inputs := s.inputs.drop (j + k) } (l ++ l') := by
  have hstart := hfirst fun m hm => hnr m (Nat.lt_add_right k hm)
  have hall := hstart.append (hsecond ht (hnr.after hstart.ends)) (Nat.add_right_comm e j 1)
  rwa [← run_inputs hall.ends]

/-- SF_OE_HI raises OE after G edges (R115, R150). -/
theorem busyRun_sfOeHi {s : State} (e : Nat) (h : AtPhase .startFrame s .sfOeHi) (hnr : NoReset s.cfg.gap s) :
    BusyRun (e + 1) s.cfg.gap s { s with
      oe := true, evValid := true, evSig := 4, evVal := 0x01, cnt := 0, phase := .sfModeHi, inputs := s.inputs.drop s.cfg.gap }
      [(e + s.cfg.gap, Line.oe.event true)] := by
  have hrun := BusyRun.of_phase Config.gap e h (by decide) (by decide) (by simp [Phase.req]) hnr
    (fun x hb hp hq => let ⟨hfires, _⟩ := startFramePhasesFire x hb; hfires hp hq) fun _ => rfl
  exact hrun

/-- SF_MODE_HI raises MODE after G edges (R115, R150). -/
theorem busyRun_sfModeHi {s : State} (e : Nat) (h : AtPhase .startFrame s .sfModeHi) (hnr : NoReset s.cfg.gap s) :
    BusyRun (e + 1) s.cfg.gap s { s with
      mode := true, evValid := true, evSig := 2, evVal := 0x01, cnt := 0, phase := .sfSpvLo, inputs := s.inputs.drop s.cfg.gap }
      [(e + s.cfg.gap, Line.mode.event true)] := by
  have hrun := BusyRun.of_phase Config.gap e h (by decide) (by decide) (by simp [Phase.req]) hnr
    (fun x hb hp hq => let ⟨_, hfires, _⟩ := startFramePhasesFire x hb; hfires hp hq) fun _ => rfl
  exact hrun

/-- SF_SPV_LO lowers SPV after G edges (R115, R150). -/
theorem busyRun_sfSpvLo {s : State} (e : Nat) (h : AtPhase .startFrame s .sfSpvLo) (hnr : NoReset s.cfg.gap s) :
    BusyRun (e + 1) s.cfg.gap s { s with
      spv := false, evValid := true, evSig := 0, evVal := 0x00, cnt := 0, phase := .sfCkvLo, inputs := s.inputs.drop s.cfg.gap }
      [(e + s.cfg.gap, Line.spv.event false)] := by
  have hrun := BusyRun.of_phase Config.gap e h (by decide) (by decide) (by simp [Phase.req]) hnr
    (fun x hb hp hq => let ⟨_, _, hfires, _⟩ := startFramePhasesFire x hb; hfires hp hq) fun _ => rfl
  exact hrun

/-- SF_CKV_LO lowers CKV after G edges (R115, R150). -/
theorem busyRun_sfCkvLo {s : State} (e : Nat) (h : AtPhase .startFrame s .sfCkvLo) (hnr : NoReset s.cfg.gap s) :
    BusyRun (e + 1) s.cfg.gap s { s with
      ckv := false, evValid := true, evSig := 1, evVal := 0x00, cnt := 0, phase := .sfCkvHi, inputs := s.inputs.drop s.cfg.gap }
      [(e + s.cfg.gap, Line.ckv.event false)] := by
  have hrun := BusyRun.of_phase Config.gap e h (by decide) (by decide) (by simp [Phase.req]) hnr
    (fun x hb hp hq => let ⟨_, _, _, hfires, _⟩ := startFramePhasesFire x hb; hfires hp hq) fun _ => rfl
  exact hrun

/-- SF_CKV_HI raises CKV after H edges (R115, R150). -/
theorem busyRun_sfCkvHi {s : State} (e : Nat) (h : AtPhase .startFrame s .sfCkvHi) (hnr : NoReset s.cfg.hold s) :
    BusyRun (e + 1) s.cfg.hold s { s with
      ckv := true, evValid := true, evSig := 1, evVal := 0x01, cnt := 0, phase := .sfSpvHi, inputs := s.inputs.drop s.cfg.hold }
      [(e + s.cfg.hold, Line.ckv.event true)] := by
  have hrun := BusyRun.of_phase Config.hold e h (by decide) (by decide) (by simp [Phase.req]) hnr
    (fun x hb hp hq => let ⟨_, _, _, _, hfires, _⟩ := startFramePhasesFire x hb; hfires hp hq) fun _ => rfl
  exact hrun

/-- SF_SPV_HI raises SPV after G edges and completes (R115, R150). -/
theorem busyRun_sfSpvHi {s : State} (e : Nat) (h : AtPhase .startFrame s .sfSpvHi) (hnr : NoReset s.cfg.gap s) :
    BusyRun (e + 1) s.cfg.gap s { s with
      spv := true, evValid := true, evSig := 0, evVal := 0x01, cnt := 0, busy := false, phase := .idle,
      life := if s.life = .idle then .frameOpen else s.life, inputs := s.inputs.drop s.cfg.gap }
      [(e + s.cfg.gap, Line.spv.event true)] := by
  have hrun := BusyRun.of_phase Config.gap e h (by decide) (by decide) (by simp [Phase.req]) hnr
    (fun x hb hp hq => let ⟨_, _, _, _, _, hfires⟩ := startFramePhasesFire x hb; hfires hp hq) fun _ => rfl
  exact hrun

/-- START_FRAME from its first phase on, its events at the edges of R150. -/
theorem busyRun_startFrame {s : State} (h : AtPhase .startFrame s .sfOeHi) (hnr : NoReset (5 * s.cfg.gap + s.cfg.hold) s) :
    BusyRun 1 (5 * s.cfg.gap + s.cfg.hold) s { s with
      oe := true, mode := true, spv := true, ckv := true, evValid := true, evSig := 0, evVal := 0x01, cnt := 0, busy := false,
      phase := .idle, life := if s.life = .idle then .frameOpen else s.life, inputs := s.inputs.drop (5 * s.cfg.gap + s.cfg.hold) }
      [(s.cfg.gap, Line.oe.event true), (2 * s.cfg.gap, Line.mode.event true), (3 * s.cfg.gap, Line.spv.event false),
       (4 * s.cfg.gap, Line.ckv.event false), (4 * s.cfg.gap + s.cfg.hold, Line.ckv.event true),
       (5 * s.cfg.gap + s.cfg.hold, Line.spv.event true)] := by
  have hedges : 5 * s.cfg.gap + s.cfg.hold = s.cfg.gap + s.cfg.gap + s.cfg.gap + s.cfg.gap + s.cfg.hold + s.cfg.gap := by omega
  rw [hedges] at hnr ⊢
  have hmode := BusyRun.chain (busyRun_sfOeHi 0 h) (busyRun_sfModeHi _) ⟨h.ok, h.busy, h.op, h.size, rfl, rfl⟩
  have hspvLow := BusyRun.chain hmode (busyRun_sfSpvLo _) ⟨h.ok, h.busy, h.op, h.size, rfl, rfl⟩
  have hckvLow := BusyRun.chain hspvLow (busyRun_sfCkvLo _) ⟨h.ok, h.busy, h.op, h.size, rfl, rfl⟩
  have hckvHigh := BusyRun.chain hckvLow (busyRun_sfCkvHi _) ⟨h.ok, h.busy, h.op, h.size, rfl, rfl⟩
  have hspvHigh := BusyRun.chain hckvHigh (busyRun_sfSpvHi _) ⟨h.ok, h.busy, h.op, h.size, rfl, rfl⟩ hnr
  convert hspvHigh using 1
  simp only [zero_add, List.cons_append, List.nil_append, List.cons.injEq, Prod.mk.injEq, and_true, true_and]
  omega

/-- Settles O29: acceptance and the six phases; H is the CKV low time rounded up. -/
theorem startFrameRunsToCompletion : Obligations.StartFrameRunsToCompletion := by
  unfold Obligations.StartFrameRunsToCompletion
  intro s hoff hnr
  obtain ⟨-, -, hexec, -⟩ := acceptanceCapturesTheCommand s hoff.ready
  obtain ⟨-, hnr⟩ := (noReset_succ (step_of_exec hoff rfl hexec)).mp hnr
  have hall := busyRun_startFrame (.of_acceptance hoff hexec) hnr
  obtain ⟨hfirst, htrace, hbusy, hends⟩ := hall.from_acceptance hoff rfl hexec
  obtain ⟨-, -, -, htime, -⟩ := cycleCountsAreCeilings.2 s.cfg
  refine ⟨⟨_, hexec, hfirst, rfl, rfl, rfl, rfl⟩, htrace, hbusy, ?_, htime⟩
  simpa [State.nextEdge] using hends

/-- EF_MODE_LO lowers MODE after G edges (R115, R153). -/
theorem busyRun_efModeLo {s : State} (e : Nat) (h : AtPhase .endFrame s .efModeLo) (hnr : NoReset s.cfg.gap s) :
    BusyRun (e + 1) s.cfg.gap s { s with
      mode := false, evValid := true, evSig := 2, evVal := 0x00, cnt := 0, phase := .efOeLo, inputs := s.inputs.drop s.cfg.gap }
      [(e + s.cfg.gap, Line.mode.event false)] := by
  have hrun := BusyRun.of_phase Config.gap e h (by decide) (by decide) (by simp [Phase.req]) hnr
    (fun x hb hp hq => let ⟨hfires, _⟩ := endFramePhasesFire x hb; hfires hp hq) fun _ => rfl
  exact hrun

/-- EF_OE_LO lowers OE after G edges and completes (R115, R153). -/
theorem busyRun_efOeLo {s : State} (e : Nat) (h : AtPhase .endFrame s .efOeLo) (hnr : NoReset s.cfg.gap s) :
    BusyRun (e + 1) s.cfg.gap s { s with
      oe := false, evValid := true, evSig := 4, evVal := 0x00, cnt := 0, busy := false, phase := .idle,
      life := if s.life = .frameOpen then .idle else s.life, inputs := s.inputs.drop s.cfg.gap }
      [(e + s.cfg.gap, Line.oe.event false)] := by
  have hrun := BusyRun.of_phase Config.gap e h (by decide) (by decide) (by simp [Phase.req]) hnr
    (fun x hb hp hq => let ⟨_, hfires⟩ := endFramePhasesFire x hb; hfires hp hq) fun _ => rfl
  exact hrun

/-- END_FRAME from its first phase on, its events at the edges of R153. -/
theorem busyRun_endFrame {s : State} (h : AtPhase .endFrame s .efModeLo) (hnr : NoReset (2 * s.cfg.gap) s) :
    BusyRun 1 (2 * s.cfg.gap) s { s with
      mode := false, oe := false, evValid := true, evSig := 4, evVal := 0x00, cnt := 0, busy := false, phase := .idle,
      life := if s.life = .frameOpen then .idle else s.life, inputs := s.inputs.drop (2 * s.cfg.gap) }
      [(s.cfg.gap, Line.mode.event false), (2 * s.cfg.gap, Line.oe.event false)] := by
  rw [two_mul] at hnr ⊢
  have hboth := BusyRun.chain (busyRun_efModeLo 0 h) (busyRun_efOeLo _) ⟨h.ok, h.busy, h.op, h.size, rfl, rfl⟩ hnr
  simpa using hboth

/-- Settles O30: acceptance, G edges of EF_MODE_LO and G edges of EF_OE_LO. -/
theorem endFrameRunsToCompletion : Obligations.EndFrameRunsToCompletion := by
  unfold Obligations.EndFrameRunsToCompletion
  intro s hoff hnr
  obtain ⟨-, -, -, hexec, -⟩ := acceptanceCapturesTheCommand s hoff.ready
  obtain ⟨-, hnr⟩ := (noReset_succ (step_of_exec hoff rfl hexec)).mp hnr
  have hboth := busyRun_endFrame (.of_acceptance hoff hexec) hnr
  obtain ⟨hfirst, htrace, hbusy, hends⟩ := hboth.from_acceptance hoff rfl hexec
  refine ⟨⟨_, hexec, hfirst, rfl, rfl, rfl, rfl⟩, htrace, hbusy, ?_⟩
  simpa [State.nextEdge] using hends

end Sys2Proof.Machine
end

section
/-! The row emission command (43_row.md): a row whose byte never comes; and WRITE_ROW from acceptance to completion, byte by byte and then its
tail, for every pattern of data waits. -/

namespace Sys2Proof.Machine

/-- Settles O50: the waiting block is the one it was but for its counter and `ev_valid`, and a reset edge leaves any state. -/
theorem missingByteHangsTheRow : Obligations.MissingByteHangsTheRow := by
  unfold Obligations.MissingByteHangsTheRow
  refine ⟨fun s k hcons hok hp hnr hlate => ?_, fun s hok _ hrst => step_of_reset hok hrst⟩
  have hb : s.busy = true := hcons.sequencer.busy_of_phase (by simp [hp])
  have hstl : s.stl = false := hcons.pulses.stl_low.mpr (by simp [hp])
  exact ⟨s.waited k, run_without_byte hcons hok hp hnr hlate, hb, hp, hstl, rfl, rfl, by simp [State.takesCommand, State.cmdReady, hb]⟩

/-- A phase of WRITE_ROW that writes a line, G edges after the event before it, and is not the row's last (R115, R118). -/
theorem busyRun_rowPin {n : BitVec 16} {s : State} (p q : Phase) (sig : Line) (b : Bool) (g e : Nat) (h : AtPhase (.writeRow n) s p)
    (hnr : NoReset g s) (hg : s.cfg.gap = g := by rfl) (hp : p ∉ [.wrData, .wrClLo] := by decide)
    (hrow : ∀ x : State, x.phase = p → writeRowRow x = some { action := .pinWrite sig b, req := x.cfg.gap, next := some q } := by
      intro x hx; simp [writeRowRow, hx]) :
    BusyRun (e + 1) g s { s.setLine sig b with
      evValid := true, evSig := sig.id, evVal := zext8 b, cnt := 0, phase := q, inputs := s.inputs.drop g }
      [(e + g, sig.event b)] := by
  subst hg
  have hmem : p ∈ phasesOf .writeRow := h.phase ▸ phase_mem_of_row (i := .writeRow n) (hrow s h.phase)
  have hreq : p.req s.cfg = s.cfg.gap := h.phase ▸ (req_of_row (i := .writeRow n) (hrow s h.phase)).symm
  have hdata : p ≠ .wrData := fun h => hp (by simp [h])
  have hrun := BusyRun.of_phase Config.gap e h hmem hdata hreq hnr
    (fun x hb hx hq => exec_pinWrite_go sig b hb hq (by rwa [hx]) (hrow x hx)) fun _ => by cases sig <;> rfl
  exact hrun

/-- WR_STL_LO lowers STL after G edges; a row of no bytes goes on to its tail (R115, R163). -/
theorem busyRun_wrStlLo {n : BitVec 16} {s : State} (e : Nat) (h : AtPhase (.writeRow n) s .wrStlLo) (hnr : NoReset s.cfg.gap s) :
    BusyRun (e + 1) s.cfg.gap s { s with
      stl := false, evValid := true, evSig := 3, evVal := 0x00, cnt := 0, phase := if s.size = 0 then .wrStlHi else .wrData,
      inputs := s.inputs.drop s.cfg.gap }
      [(e + s.cfg.gap, Line.stl.event false)] := by
  have hrun := BusyRun.of_phase Config.gap e h (by simp [Instr.opcode, phasesOf]) (by decide) (by simp [Phase.req]) hnr
    (fun x hb hp hq => let ⟨hfires, _⟩ := writeRowPhasesFire n x hb; hfires hp hq) fun _ => rfl
  exact hrun

/-- WR_DATA writes the byte of the first edge, G edges or more after the event before it, at which one is offered (R114, R161, R164). -/
theorem busyRun_wrData {n : BitVec 16} {s : State} {j : Nat} (e : Nat) (h : AtPhase (.writeRow n) s .wrData) (hgap : s.cfg.gap ≤ j + 1)
    (hlate : ∀ k, s.cfg.gap ≤ k + 1 → k < j → (s.inputAt k).dinValid = false) (hbyte : (s.inputAt j).dinValid = true)
    (hnr : NoReset (j + 1) s) :
    BusyRun (e + 1) (j + 1) s { s with
      d := (s.inputAt j).din, evValid := true, evSig := 7, evVal := (s.inputAt j).din, cnt := 0, phase := .wrClHi,
      inputs := s.inputs.drop (j + 1) }
      [(e + (j + 1), busEvent (s.inputAt j).din)] := by
  obtain ⟨hok, hb, hop, hsize, hcnt, hp⟩ := h
  have hrow : rowOf (.writeRow n) s = some { action := .busWriteStream, req := s.cfg.gap, next := some .wrClHi } := by
    simp [rowOf, writeRowRow, hp]
  have hwaits : BusyRun (e + 1) j s (s.waited j) [] := .waits (e + 1) hb fun k hk => by
    refine run_hold k hok (by omega) hb (running_of_captured hop hsize) hrow (fun m hm => hnr m (by omega)) fun m hm => ?_
    by_cases hearly : s.cfg.gap ≤ m + 1
    · simp [State.fires, hp, hlate m hearly (by omega)]
    · simp [State.fires, State.waited, Config.sat, hcnt]
      omega
  obtain ⟨-, hfits, -⟩ := wait_fits hok
  have hcount : s.cfg.gap ≤ (s.waited j).cnt + 1 := by
    simp [State.waited, Config.sat, hcnt]
    omega
  have hstep := stepRunsTheCapturedCommand (s.waited j) (.writeRow n) hok (by simpa using hnr j (by omega)) hb hop hsize
  rw [exec_wrData (s := s.waited j) hb hp hcount (by simpa using hbyte), waited_input] at hstep
  have hall := hwaits.append (.single (e + 1 + j) hb hstep) rfl
  convert hall using 1
  · simp [State.nextEdge, State.waited, busId]
  · simp [State.lastEvent, busEvent, Nat.add_right_comm, Nat.add_assoc]

/-- WR_CL_LO lowers CL after G edges and counts the byte (R115, R161). -/
theorem busyRun_wrClLo {n : BitVec 16} {s : State} (e : Nat) (h : AtPhase (.writeRow n) s .wrClLo) (hnr : NoReset s.cfg.gap s) :
    BusyRun (e + 1) s.cfg.gap s { s with
      cl := false, evValid := true, evSig := 6, evVal := 0x00, cnt := 0, idx := s.idx + 1,
      phase := if s.idx.toNat + 1 < s.size.toNat then .wrData else .wrStlHi, inputs := s.inputs.drop s.cfg.gap }
      [(e + s.cfg.gap, Line.cl.event false)] := by
  have hrun := BusyRun.of_phase Config.gap e h (by simp [Instr.opcode, phasesOf]) (by decide) (by simp [Phase.req]) hnr
    (fun x hb hp hq => exec_wrClLo hb hp hq) fun _ => rfl
  exact hrun

/-- WR_CKV_HI raises CKV after H edges and completes; `life` stays (R115, R160). -/
theorem busyRun_wrCkvHi {n : BitVec 16} {s : State} (c e : Nat) (h : AtPhase (.writeRow n) s .wrCkvHi) (hnr : NoReset c s)
    (hc : s.cfg.hold = c := by rfl) :
    BusyRun (e + 1) c s { s with
      ckv := true, evValid := true, evSig := 1, evVal := 0x01, cnt := 0, busy := false, phase := .idle, inputs := s.inputs.drop c }
      [(e + c, Line.ckv.event true)] := by
  subst hc
  have hrun := BusyRun.of_phase Config.hold e h (by simp [Instr.opcode, phasesOf]) (by decide) (by simp [Phase.req]) hnr
    (fun x hb hp hq => let ⟨_, _, _, _, _, _, _, _, _, _, hfires⟩ := writeRowPhasesFire n x hb; hfires hp hq) fun _ => rfl
  exact hrun

/-- One round of the byte loop: the byte that is offered j edges on, and its CL pulse (R161). -/
theorem busyRun_rowByte {n : BitVec 16} {s : State} {j : Nat} (g e : Nat) (h : AtPhase (.writeRow n) s .wrData) (hg : s.cfg.gap = g)
    (hgap : g ≤ j + 1) (hlate : ∀ k, g ≤ k + 1 → k < j → (s.inputAt k).dinValid = false) (hbyte : (s.inputAt j).dinValid = true)
    (hnr : NoReset (j + 1 + g + g) s) :
    BusyRun (e + 1) (j + 1 + g + g) s { s with
      cl := false, d := (s.inputAt j).din, evValid := true, evSig := 6, evVal := 0x00, cnt := 0, idx := s.idx + 1,
      phase := if s.idx.toNat + 1 < s.size.toNat then .wrData else .wrStlHi, inputs := s.inputs.drop (j + 1 + g + g) }
      [(e + (j + 1), busEvent (s.inputAt j).din), (e + (j + 1) + g, Line.cl.event true), (e + (j + 1) + 2 * g, Line.cl.event false)] := by
  subst hg
  have hclHigh := BusyRun.chain (busyRun_wrData e h hgap hlate hbyte)
    (busyRun_rowPin .wrClHi .wrClLo .cl true s.cfg.gap _ · ·) ⟨h.ok, h.busy, h.op, h.size, rfl, rfl⟩
  have hclLow := BusyRun.chain hclHigh (busyRun_wrClLo _) ⟨h.ok, h.busy, h.op, h.size, rfl, rfl⟩ hnr
  have hlast : e + (j + 1) + 2 * s.cfg.gap = e + (j + 1 + s.cfg.gap) + s.cfg.gap := by omega
  rw [hlast]
  exact hclLow

/-- The edge, from acceptance, of the last event before byte m of a row, or before the tail where m is n (R165). -/
def lastEdgeBefore (g : Nat) (w : Nat → Nat) (m : Nat) : Nat := (3 * m + 1) * g + waitedBefore w m

theorem lastEdgeBefore_add_gap (g : Nat) (w : Nat → Nat) (m : Nat) : lastEdgeBefore g w m + g = (3 * m + 2) * g + waitedBefore w m := by
  simp only [lastEdgeBefore]
  ring

theorem byteEdge_eq (g : Nat) (w : Nat → Nat) (m : Nat) : byteEdge g w m = lastEdgeBefore g w m + g + w m := by
  simp only [byteEdge, lastEdgeBefore, waitedBefore]
  ring

theorem lastEdgeBefore_succ (g : Nat) (w : Nat → Nat) (m : Nat) : lastEdgeBefore g w (m + 1) = byteEdge g w m + g + g := by
  simp only [lastEdgeBefore, byteEdge, waitedBefore]
  ring

theorem rowEdges_eq (g h : Nat) (w : Nat → Nat) (n : Nat) : rowEdges g h w n = lastEdgeBefore g w n + (6 * g + h) := by
  simp only [rowEdges, lastEdgeBefore]
  ring

/-- The events of byte i of a row at their edges (R161, R165): the part that byte has in `rowSchedule`. -/
def byteSchedule (g : Nat) (w : Nat → Nat) (v : Nat → Byte) (i : Nat) : List (Nat × Event) :=
  [(byteEdge g w i, busEvent (v i)), (byteEdge g w i + g, Line.cl.event true), (byteEdge g w i + 2 * g, Line.cl.event false)]

/-- The events of a row's tail, the event before it being at edge e (R162, R165). -/
def tailSchedule (g h e : Nat) : List (Nat × Event) :=
  [(e + g, Line.stl.event true), (e + 2 * g, Line.cl.event true), (e + 3 * g, Line.cl.event false), (e + 4 * g, Line.le.event true),
   (e + 5 * g, Line.le.event false), (e + 6 * g, Line.ckv.event false), (e + 6 * g + h, Line.ckv.event true)]

theorem rowSchedule_eq (g h : Nat) (w : Nat → Nat) (v : Nat → Byte) (n : Nat) :
    rowSchedule g h w v n = ((g, Line.stl.event false) :: (List.range n).flatMap (byteSchedule g w v)) ++
      tailSchedule g h (lastEdgeBefore g w n) := by
  have hedge : ∀ k, lastEdgeBefore g w n + k * g = (3 * n + 1 + k) * g + waitedBefore w n := fun k => by
    simp only [lastEdgeBefore]
    ring
  simp only [tailSchedule, lastEdgeBefore_add_gap, hedge, Nat.add_right_comm _ _ h]
  rfl

/-- The tail of a row, from the event before it to completion (R162). -/
theorem busyRun_rowTail {n : BitVec 16} {s : State} (e : Nat) (h : AtPhase (.writeRow n) s .wrStlHi)
    (hnr : NoReset (6 * s.cfg.gap + s.cfg.hold) s) :
    BusyRun (e + 1) (6 * s.cfg.gap + s.cfg.hold) s { s with
      stl := true, cl := false, le := false, ckv := true, evValid := true, evSig := 1, evVal := 0x01, cnt := 0, busy := false,
      phase := .idle, inputs := s.inputs.drop (6 * s.cfg.gap + s.cfg.hold) }
      (tailSchedule s.cfg.gap s.cfg.hold e) := by
  have hedges : 6 * s.cfg.gap + s.cfg.hold =
      s.cfg.gap + s.cfg.gap + s.cfg.gap + s.cfg.gap + s.cfg.gap + s.cfg.gap + s.cfg.hold := by omega
  rw [hedges] at hnr ⊢
  have hstlHigh := fun hnr => busyRun_rowPin .wrStlHi .wrXclHi .stl true s.cfg.gap e h hnr
  have hclHigh := BusyRun.chain hstlHigh
    (busyRun_rowPin .wrXclHi .wrXclLo .cl true s.cfg.gap _ · ·) ⟨h.ok, h.busy, h.op, h.size, rfl, rfl⟩
  have hclLow := BusyRun.chain hclHigh
    (busyRun_rowPin .wrXclLo .wrLeHi .cl false s.cfg.gap _ · ·) ⟨h.ok, h.busy, h.op, h.size, rfl, rfl⟩
  have hleHigh := BusyRun.chain hclLow
    (busyRun_rowPin .wrLeHi .wrLeLo .le true s.cfg.gap _ · ·) ⟨h.ok, h.busy, h.op, h.size, rfl, rfl⟩
  have hleLow := BusyRun.chain hleHigh
    (busyRun_rowPin .wrLeLo .wrCkvLo .le false s.cfg.gap _ · ·) ⟨h.ok, h.busy, h.op, h.size, rfl, rfl⟩
  have hckvLow := BusyRun.chain hleLow
    (busyRun_rowPin .wrCkvLo .wrCkvHi .ckv false s.cfg.gap _ · ·) ⟨h.ok, h.busy, h.op, h.size, rfl, rfl⟩
  have hckvHigh := BusyRun.chain hckvLow (busyRun_wrCkvHi s.cfg.hold _ · ·) ⟨h.ok, h.busy, h.op, h.size, rfl, rfl⟩ hnr
  convert hckvHigh using 1
  · rfl
  · simp only [tailSchedule, List.cons_append, List.nil_append, List.cons.injEq, Prod.mk.injEq, and_true, true_and]
    omega

/-- The block in which WRITE_ROW n, accepted in s, has lowered STL and shifted its first m bytes (R161). -/
def State.rowAfter (s : State) (n : BitVec 16) (w : Nat → Nat) (m : Nat) : State :=
  { s with
    stl := false
    cl := if m = 0 then s.cl else false
    d := if m = 0 then s.d else (s.inputAt (byteEdge s.cfg.gap w (m - 1))).din
    faultOrder := s.faultOrder || decide (s.life ≠ .frameOpen)
    busy := true
    phase := if m < n.toNat then .wrData else .wrStlHi
    op := 0x5
    size := n
    idx := BitVec.ofNat 16 m
    cnt := 0
    evValid := true
    evSig := if m = 0 then 3 else 6
    evVal := 0x00
    inputs := s.inputs.drop (lastEdgeBefore s.cfg.gap w m + 1) }

theorem rowAfter_inputAt (s : State) (n : BitVec 16) (w : Nat → Nat) (m j : Nat) :
    (s.rowAfter n w m).inputAt j = s.inputAt (lastEdgeBefore s.cfg.gap w m + 1 + j) := by
  simp [State.rowAfter, State.inputAt]

theorem AtPhase.rowAfter {s : State} (hok : s.cfg.ok = true) (n : BitVec 16) (w : Nat → Nat) (m : Nat) :
    AtPhase (.writeRow n) (s.rowAfter n w m) (if m < n.toNat then .wrData else .wrStlHi) :=
  ⟨hok, rfl, rfl, rfl, rfl, rfl⟩

/-- Before its first byte a row has lowered STL, and one of no bytes has come to its tail (R163). -/
theorem rowAfter_zero (s : State) (n : BitVec 16) (w : Nat → Nat) : s.rowAfter n w 0 =
    { s with
      stl := false, faultOrder := s.faultOrder || decide (s.life ≠ .frameOpen), busy := true, op := 0x5, size := n, idx := 0, cnt := 0,
      phase := if n = 0 then .wrStlHi else .wrData, evValid := true, evSig := 3, evVal := 0x00,
      inputs := s.inputs.drop (s.cfg.gap + 1) } := by
  have hpos : 0 < n.toNat ↔ ¬ n = 0 := Nat.pos_iff_ne_zero.trans (not_congr (BitVec.toNat_inj (y := 0)))
  simp [State.rowAfter, lastEdgeBefore, waitedBefore, hpos]

/-- A counted byte makes m bytes m + 1 (R161, R169). -/
theorem rowAfter_succ (s : State) {n : BitVec 16} {w : Nat → Nat} {m k : Nat} (hm : m < n.toNat)
    (hk : lastEdgeBefore s.cfg.gap w (m + 1) = lastEdgeBefore s.cfg.gap w m + k) :
    { s.rowAfter n w m with
      cl := false, d := (s.inputAt (byteEdge s.cfg.gap w m)).din, evValid := true, evSig := 6, evVal := 0x00, cnt := 0,
      idx := (s.rowAfter n w m).idx + 1,
      phase := if (s.rowAfter n w m).idx.toNat + 1 < (s.rowAfter n w m).size.toNat then .wrData else .wrStlHi,
      inputs := (s.rowAfter n w m).inputs.drop k } = s.rowAfter n w (m + 1) := by
  have hidx : (BitVec.ofNat 16 m).toNat = m := by simp; omega
  simp [State.rowAfter, hidx, BitVec.ofNat_add, hk, Nat.add_right_comm]

/-- Byte m of a row takes the block from m bytes to m + 1 (R161, R165). -/
theorem busyRun_rowAfter_succ {s : State} {n : BitVec 16} {w : Nat → Nat} {m : Nat} (hok : s.cfg.ok = true) (hm : m < n.toNat)
    (hbytes : BytesComeAfter s w n.toNat) (hnr : NoReset (s.cfg.gap + w m + s.cfg.gap + s.cfg.gap) (s.rowAfter n w m)) :
    BusyRun (lastEdgeBefore s.cfg.gap w m + 1) (s.cfg.gap + w m + s.cfg.gap + s.cfg.gap) (s.rowAfter n w m) (s.rowAfter n w (m + 1))
      (byteSchedule s.cfg.gap w (fun i => (s.inputAt (byteEdge s.cfg.gap w i)).din) m) := by
  obtain ⟨hlate, hbyte⟩ := hbytes m hm
  obtain ⟨hpos, -⟩ := wait_fits hok
  obtain ⟨j, hj⟩ : ∃ j, s.cfg.gap + w m = j + 1 := Nat.exists_eq_add_of_le' (by omega)
  have hedge : lastEdgeBefore s.cfg.gap w m + (j + 1) = byteEdge s.cfg.gap w m := by rw [← hj, byteEdge_eq, Nat.add_assoc]
  have htaken : (s.rowAfter n w m).inputAt j = s.inputAt (byteEdge s.cfg.gap w m) := by
    rw [rowAfter_inputAt, ← hedge, Nat.add_right_comm, Nat.add_assoc]
  have hphase : AtPhase (.writeRow n) (s.rowAfter n w m) .wrData := by simpa [hm] using AtPhase.rowAfter hok n w m
  rw [hj] at hnr ⊢
  have hround := busyRun_rowByte s.cfg.gap (lastEdgeBefore s.cfg.gap w m) hphase rfl (by omega) (fun k hk hkj => ?_)
    (by rwa [htaken]) hnr
  · rw [htaken, rowAfter_succ s hm (by rw [lastEdgeBefore_succ, ← hedge]; omega), hedge] at hround
    exact hround
  · obtain ⟨i, hi⟩ := Nat.exists_eq_add_of_le hk
    rw [rowAfter_inputAt, Nat.add_assoc, Nat.add_comm 1 k, hi, ← Nat.add_assoc, lastEdgeBefore_add_gap]
    exact hlate i (by omega)

/-- A row from its first phase to m bytes shifted, its events at the edges of R165. -/
theorem busyRun_rowAfter {s t : State} {n : BitVec 16} {w : Nat → Nat} {m : Nat} {word : Word} (hoff : Offered s word)
    (hexec : exec (.writeRow n) s = .next t) (hbytes : BytesComeAfter s w n.toNat) (hm : m ≤ n.toNat)
    (hnr : NoReset (lastEdgeBefore s.cfg.gap w m) t.nextEdge) :
    BusyRun 1 (lastEdgeBefore s.cfg.gap w m) t.nextEdge (s.rowAfter n w m)
      ((s.cfg.gap, Line.stl.event false) ::
        (List.range m).flatMap (byteSchedule s.cfg.gap w fun i => (s.inputAt (byteEdge s.cfg.gap w i)).din)) := by
  induction m with
  | zero =>
    obtain ⟨-, -, -, -, haccept⟩ := acceptanceCapturesTheCommand s hoff.ready
    cases hexec.symm.trans (haccept n)
    have hedge : lastEdgeBefore s.cfg.gap w 0 = s.cfg.gap := by simp [lastEdgeBefore, waitedBefore]
    rw [hedge] at hnr ⊢
    have hstl := busyRun_wrStlLo 0 (.of_acceptance hoff (haccept n)) hnr
    rw [rowAfter_zero]
    simpa [State.nextEdge] using hstl
  | succ m ih =>
    have hedge : lastEdgeBefore s.cfg.gap w (m + 1) = lastEdgeBefore s.cfg.gap w m + (s.cfg.gap + w m + s.cfg.gap + s.cfg.gap) := by
      rw [lastEdgeBefore_succ, byteEdge_eq]
      omega
    rw [hedge] at hnr ⊢
    have hbefore := ih (by omega) fun j hj => hnr j (Nat.lt_add_right _ hj)
    have hbyte := busyRun_rowAfter_succ hoff.ok hm hbytes (hnr.after hbefore.ends)
    simpa [List.range_succ] using hbefore.append hbyte (Nat.add_comm _ _)

/-- Settles O31: acceptance, STL low, the n rounds of the byte loop and the tail; H is the CKV low time rounded up. -/
theorem writeRowRunsToCompletion : Obligations.WriteRowRunsToCompletion := by
  unfold Obligations.WriteRowRunsToCompletion
  intro s n w hoff hnr hbytes
  obtain ⟨-, -, -, -, haccept⟩ := acceptanceCapturesTheCommand s hoff.ready
  have hexec := haccept n
  have hd : decode ((n.setWidth 32 <<< 16) ||| 0x00000005#32) = .cmd (.writeRow n) := decode_encode (.writeRow n)
  obtain ⟨-, hnr⟩ := (noReset_succ (step_of_exec hoff hd hexec)).mp hnr
  obtain ⟨-, -, -, htime, -⟩ := cycleCountsAreCeilings.2 s.cfg
  rw [rowEdges_eq] at hnr ⊢
  rw [rowSchedule_eq]
  have hloop := busyRun_rowAfter hoff hexec hbytes le_rfl fun j hj => hnr j (Nat.lt_add_right _ hj)
  have htail := busyRun_rowTail (lastEdgeBefore s.cfg.gap w n.toNat) (by simpa using AtPhase.rowAfter hoff.ok n w n.toNat)
    (hnr.after hloop.ends)
  obtain ⟨hfirst, htrace, hbusy, hends⟩ := (hloop.append htail (Nat.add_comm _ _)).from_acceptance hoff hd hexec
  refine ⟨⟨_, hexec, hfirst, rfl, rfl, rfl, rfl, rfl, rfl⟩, htrace, hbusy, hends.trans ?_, htime⟩
  have hzero : n.toNat = 0 ↔ n = 0 := BitVec.toNat_inj (y := 0)
  simp [State.rowAfter, Nat.add_right_comm _ 1, hzero]

end Sys2Proof.Machine
end

section
/-! The block keeps stepping after a fault (60_exceptions.md R185). -/

namespace Sys2Proof.Machine

/-- Settles O37: the rules have a step for every consistent state, which the machine takes (O38), and no step writes the build parameters. -/
theorem noReachableStateStops : Obligations.NoReachableStateStops := by
  unfold Obligations.NoReachableStateStops
  intro s hcons hok
  obtain ⟨_, -, hstep⟩ := stepIsTheRulesStep s hcons hok
  exact ⟨_, hstep, step_cfg hstep⟩

end Sys2Proof.Machine
end

section
/-! Reset (70_reset_and_hazards.md R210 to R214): a reset edge from any state, the outputs after it, and a reset during a row's CKV pulse. -/

namespace Sys2Proof.Machine

/-- Settles O15: the edge is `step_of_reset`, and no handshake completes where `rst` is 1. -/
theorem resetEdgeWinsOverEverything : Obligations.ResetEdgeWinsOverEverything := by
  unfold Obligations.ResetEdgeWinsOverEverything
  intro s hok hrst
  have hcmd : s.takesCommand = false := by simp [State.takesCommand, hrst]
  have hbyte : s.takesByte = false := by simp [State.takesByte, hrst]
  exact ⟨_, step_of_reset hok hrst, hcmd, hbyte, rfl, rfl, rfl, rfl, rfl, rfl, rfl, rfl, rfl, rfl, rfl, id,
    rfl, rfl, rfl, rfl, rfl, rfl, rfl, rfl, rfl, rfl, rfl, rfl⟩

/-- The reset levels of the lines with the spec's pads (10_state.md R50). -/
theorem resetOf_lines_of_specPads {c : Config} (inputs : List EdgeInput) (h : c.SpecPads) :
    (State.resetOf c inputs).lines =
      { spv := true, ckv := true, mode := false, stl := true, oe := false, le := false, cl := false, dcdc := true, d := 0x00 } := by
  obtain ⟨hmode, hoe, hle, hcl, hd⟩ := h
  simp [State.lines, State.resetOf, hmode, hoe, hle, hcl, hd]

/-- Settles O16: the outputs are functions of registers that reset fixes. -/
theorem outputsAfterReset : Obligations.OutputsAfterReset := by
  unfold Obligations.OutputsAfterReset
  intro c inputs hpads
  have hstatus : (State.resetOf c inputs).status = 0x00#8 := by
    simp [State.status, State.resetOf, Life.code]
  exact ⟨rfl, rfl, hstatus, resetOf_lines_of_specPads inputs hpads, rfl, by decide⟩

/-- In WR_CKV_HI the only pulse in progress is CKV's (43_row.md R162). -/
theorem PulseInv.lines_in_wrCkvHi {s : State} (h : PulseInv s) (hp : s.phase = .wrCkvHi) (hcl : s.cfg.padCl = false)
    (hle : s.cfg.padLe = false) : s.spv = true ∧ s.ckv = false ∧ s.stl = true ∧ s.cl = false ∧ s.le = false := by
  refine ⟨?_, h.ckv_low.mpr (by simp [hp]), ?_, ?_, ?_⟩
  · simpa [hp] using h.spv_low
  · simpa [hp] using h.stl_low
  · simpa [hp] using h.cl_high hcl
  · simpa [hp] using h.le_high hle

/-- During a row of an open frame the converter is on and MODE and OE are high (40_sequencer.md R121; 42_frame.md R155). -/
theorem LifecycleInv.lines_in_frame {s : State} (h : LifecycleInv s) (hp : s.phase = .wrCkvHi) (hlife : s.life = .frameOpen) :
    s.dcdc = false ∧ s.mode = true ∧ s.oe = true := by
  refine ⟨?_, h.mode_frame hlife (by simp [hp]), h.oe_frame hlife⟩
  simpa [hlife] using h.dcdc_life (by simp [hp])

/-- Settles O52: the invariant gives the levels before the edge, the reset state those after it. -/
theorem resetInARowsCkvPulse : Obligations.ResetInARowsCkvPulse := by
  unfold Obligations.ResetInARowsCkvPulse
  intro s hcons hok ⟨hmode, hoe, hle, hcl, hd⟩ hp hrst
  have hbusy : s.busy = true := hcons.sequencer.busy_of_phase (by simp [hp])
  obtain ⟨hspv, hckv, hstl, hcl', hle'⟩ := hcons.pulses.lines_in_wrCkvHi hp hcl hle
  refine ⟨_, step_of_reset hok hrst, hbusy, rfl, rfl, hckv, rfl, hspv.symm, hstl.symm, hcl.trans hcl'.symm, hle.trans hle'.symm, hd,
    fun hlife => ?_⟩
  obtain ⟨hdcdc, hmode', hoe'⟩ := hcons.lifecycle.lines_in_frame hp hlife
  exact ⟨hdcdc, rfl, hmode', hmode, hoe', hoe⟩

end Sys2Proof.Machine
end

section
/-! When the inputs count (20_memory.md R72, R84; 40_sequencer.md R125; 70_reset_and_hazards.md R220): `rst`, which handshakes complete, and
what they transfer fix the step. -/

namespace Sys2Proof.Machine

/-- The state with other values on the input ports at the next edge. -/
def State.withInput (s : State) (e : EdgeInput) : State := { s with inputs := e :: s.inputs.tail }

/-- The next edge's inputs e complete the handshakes of s, transfer the same word and the same byte in them, and reset alike. -/
structure SameHandshakes (s : State) (e : EdgeInput) : Prop where
  rst : e.rst = s.input.rst
  takesCommand : (s.withInput e).takesCommand = s.takesCommand
  cmd : s.takesCommand = true → e.cmd = s.input.cmd
  takesByte : (s.withInput e).takesByte = s.takesByte
  din : s.takesByte = true → e.din = s.input.din

section

variable (s : State) (e : EdgeInput)

@[simp] theorem withInput_input : (s.withInput e).input = e := rfl

@[simp] theorem withInput_nextEdge : (s.withInput e).nextEdge = s.nextEdge := rfl

@[simp] theorem withInput_phase : (s.withInput e).phase = s.phase := rfl

@[simp] theorem withInput_cfg : (s.withInput e).cfg = s.cfg := rfl

@[simp] theorem withInput_running : (s.withInput e).running = s.running := rfl

theorem rowOf_withInput (i : Instr) : rowOf i (s.withInput e) = rowOf i s := by
  cases i <;> rfl

theorem accept_withInput (op : Opcode) (n : BitVec 16) (p : Phase) : accept op n p (s.withInput e) = (accept op n p s).withInput e := by
  rw [accept_eq, accept_eq]
  simp [State.withInput]

theorem hold_withInput : hold (s.withInput e) = (hold s).withInput e := rfl

end

/-- Only the bus write reads the inputs, and of them only `din` (R72). -/
theorem perform_withInput {a : Action} {s : State} {e : EdgeInput} (h : a = .busWriteStream → e.din = s.input.din) :
    perform a (s.withInput e) = (perform a s).withInput e := by
  cases a with
  | pinWrite sig b => cases sig <;> rfl
  | busWriteStream =>
    simp only [perform, State.streamRead, withInput_input, h rfl]
    rfl
  | wait => rfl

theorem fire_withInput {op : Opcode} {r : PhaseRow} {s : State} {e : EdgeInput} (h : r.action = .busWriteStream → e.din = s.input.din) :
    fire op r (s.withInput e) = (fire op r s).withInput e := by
  unfold fire
  rw [perform_withInput h]
  cases r.next <;> rfl

/-- The fire condition reads the inputs in WR_DATA alone, where it is the byte handshake (R112, R114). -/
theorem SameHandshakes.fires {s : State} {e : EdgeInput} {i : Instr} {r : PhaseRow} (h : SameHandshakes s e)
    (hr : s.input.rst = false) (hb : s.busy = true) (hrow : rowOf i s = some r) : (s.withInput e).fires r = s.fires r := by
  by_cases hp : s.phase = .wrData
  · have hbefore := takesByte_of_row hr hb hrow
    have hafter := takesByte_of_row (s := s.withInput e) (h.rst.trans hr) hb ((rowOf_withInput s e i).trans hrow)
    rw [h.takesByte, hbefore] at hafter
    simp only [hp, withInput_phase, true_and] at hafter
    exact Bool.eq_iff_iff.mpr hafter.symm
  · simp only [State.fires, withInput_phase, hp]
    rfl

/-- An edge of a command in execution, firing or holding, under the same handshakes. -/
theorem SameHandshakes.step_of_row {s : State} {e : EdgeInput} {i : Instr} {r : PhaseRow} (h : SameHandshakes s e) (hok : s.cfg.ok = true)
    (hr : s.input.rst = false) (hb : s.busy = true) (hrun : s.running = some i) (hrow : rowOf i s = some r) :
    step (s.withInput e) = step s := by
  rw [step_of_busy hok hr hb hrun hrow,
    step_of_busy (s := s.withInput e) hok (h.rst.trans hr) hb hrun ((rowOf_withInput s e i).trans hrow), h.fires hr hb hrow]
  split
  next hfires =>
    have hdin (ha : r.action = .busWriteStream) : e.din = s.input.din :=
      h.din ((takesByte_of_row hr hb hrow).mpr ⟨(busWrite_iff_of_row hrow).mp ha, hfires⟩)
    rw [fire_withInput hdin, withInput_nextEdge]
  next => rw [hold_withInput, withInput_nextEdge]

/-- A busy block that stands at no row of a command is stuck (log 5), whatever is offered. -/
theorem step_of_stuck {s : State} (hok : s.cfg.ok = true) (hr : s.input.rst = false) (hb : s.busy = true)
    (hrow : s.running.bind (rowOf · s) = none) : step s = .fault (if s.running = none then .noCommand else .strayPhase) := by
  cases hrun : s.running with
  | none => simp [step, clockEdge, hok, edgeEffect, hr, hb, continueCommand, hrun, advance]
  | some i =>
    rw [hrun, Option.bind_some] at hrow
    simp [step, clockEdge, hok, edgeEffect, hr, hb, continueCommand, hrun, exec_of_busy i s hb, hrow, sequencerEdge, advance]

/-- An edge of a busy block under the same handshakes. -/
theorem SameHandshakes.step_of_busy {s : State} {e : EdgeInput} (h : SameHandshakes s e) (hok : s.cfg.ok = true)
    (hr : s.input.rst = false) (hb : s.busy = true) : step (s.withInput e) = step s := by
  cases hrow : s.running.bind (rowOf · s) with
  | none =>
    have hrow' : (s.withInput e).running.bind (rowOf · (s.withInput e)) = none := by
      simpa only [withInput_running, rowOf_withInput] using hrow
    rw [step_of_stuck hok hr hb hrow, step_of_stuck (s := s.withInput e) hok (h.rst.trans hr) hb hrow']
    rfl
  | some r =>
    obtain ⟨i, hrun, hrow⟩ := Option.bind_eq_some_iff.mp hrow
    exact h.step_of_row hok hr hb hrun hrow

/-- At an edge of a quiescent block without reset the command handshake is `cmd_valid` (R113). -/
theorem takesCommand_of_quiescent {s : State} (hr : s.input.rst = false) (hb : s.busy = false) : s.takesCommand = s.input.cmdValid := by
  simp [State.takesCommand, State.cmdReady, hr, hb]

/-- A busy block takes no command (R113). -/
theorem takesCommand_of_busy {s : State} (hb : s.busy = true) : s.takesCommand = false := by
  simp [State.takesCommand, State.cmdReady, hb]

/-- No byte is taken where `din_ready` is 0 (R72). -/
theorem takesByte_of_not_ready {s : State} (h : s.dinReady = false) : s.takesByte = false := by
  simp [State.takesByte, h]

/-- An edge of a quiescent block under the same handshakes. -/
theorem SameHandshakes.step_of_quiescent {s : State} {e : EdgeInput} (h : SameHandshakes s e) (hok : s.cfg.ok = true)
    (hr : s.input.rst = false) (hb : s.busy = false) : step (s.withInput e) = step s := by
  have hr' : e.rst = false := h.rst.trans hr
  have htakes : s.takesCommand = s.input.cmdValid := takesCommand_of_quiescent hr hb
  have hv' : e.cmdValid = s.input.cmdValid :=
    (takesCommand_of_quiescent (s := s.withInput e) hr' hb).symm.trans (h.takesCommand.trans htakes)
  cases hv : s.input.cmdValid with
  | false => rw [step_of_quiet hok hr hb hv, step_of_quiet (s := s.withInput e) hok hr' hb (hv'.trans hv)]; rfl
  | true =>
    have hcmd : e.cmd = s.input.cmd := h.cmd (htakes.trans hv)
    cases hd : decode s.input.cmd with
    | illegal why =>
      rw [step_of_illegal hok hr hb hv hd, step_of_illegal (s := s.withInput e) hok hr' hb (hv'.trans hv) (hcmd ▸ hd)]
      rfl
    | cmd i =>
      rw [step_of_offered hok hr hb hv hd, step_of_offered (s := s.withInput e) hok hr' hb (hv'.trans hv) (hcmd ▸ hd),
        accept_withInput, withInput_nextEdge]

/-- The inputs enter a step by `rst`, the handshakes that complete and what these transfer, and by nothing else. -/
theorem SameHandshakes.step_eq {s : State} {e : EdgeInput} (h : SameHandshakes s e) : step (s.withInput e) = step s := by
  cases hok : s.cfg.ok with
  | false => simp [step, clockEdge, hok]
  | true =>
    cases hr : s.input.rst with
    | true => exact (step_of_reset (s := s.withInput e) hok (h.rst.trans hr)).trans (step_of_reset hok hr).symm
    | false =>
      cases hb : s.busy with
      | true => exact h.step_of_busy hok hr hb
      | false => exact h.step_of_quiescent hok hr hb

/-- Settles O47: in each clause the ports that change complete the same handshakes, with the same word and byte. -/
theorem inputsCountOnlyAtTheirHandshakes : Obligations.InputsCountOnlyAtTheirHandshakes := by
  unfold Obligations.InputsCountOnlyAtTheirHandshakes
  intro s
  refine ⟨fun w hcmd => ?_, fun v hbyte => ?_, fun b w hb => ?_, fun b hready => ?_⟩
  · have h : SameHandshakes s { s.input with cmd := w } := ⟨rfl, rfl, by simp [hcmd], rfl, fun _ => rfl⟩
    exact h.step_eq
  · have h : SameHandshakes s { s.input with din := v } := ⟨rfl, rfl, fun _ => rfl, rfl, by simp [hbyte]⟩
    exact h.step_eq
  · have hafter := takesCommand_of_busy (s := s.withInput { s.input with cmdValid := b, cmd := w }) hb
    have h : SameHandshakes s { s.input with cmdValid := b, cmd := w } :=
      ⟨rfl, hafter.trans (takesCommand_of_busy hb).symm, by simp [takesCommand_of_busy hb], rfl, fun _ => rfl⟩
    exact h.step_eq
  · have hafter := takesByte_of_not_ready (s := s.withInput { s.input with dinValid := b }) hready
    have h : SameHandshakes s { s.input with dinValid := b } :=
      ⟨rfl, rfl, fun _ => rfl, hafter.trans (takesByte_of_not_ready hready).symm, by simp [takesByte_of_not_ready hready]⟩
    exact h.step_eq

end Sys2Proof.Machine
end
